-- ==== Sys2Proof/Word.lean ====
section
/-! DEFINITION. The word types of the block: octets and the 16-bit FCS accumulator (spec/00_scope.md R10,
spec/10_state.md R23). All values are unsigned; there is no signed quantity. -/

namespace Sys2Proof

/-- A byte (octet): 8 bits, bit 0 the least significant (R10). -/
abbrev Byte := BitVec 8

/-- A 16-bit FCS value: the accumulator, a table entry (R23, R24). -/
abbrev Word := BitVec 16

end Sys2Proof
end

