-- ==== Sys2Proof/Config.lean ====
section
/-! DEFINITION. The constants the spec fixes (spec/00_scope.md R7), the parameters of one instance (R6) and the
constants with no body that stand for what the spec leaves open: the capacities and retry constants of the instance
that `State.reset` describes (log 1). -/

namespace Sys2Proof

namespace Config

/-- `FLAG`, the frame delimiter (R7, R71). -/
def flag : Byte := 0x7E
/-- `ESCAPE`, the escape marker (R7, R71). -/
def escape : Byte := 0x7D
/-- `ESC_XOR`, the value an escaped octet is XORed with (R7). -/
def escXor : Byte := 0x20
/-- `FCS_INIT`, the initial accumulator (R7). -/
def fcsInit : Word := 0xFFFF
/-- `FCS_XOROUT`, the complement applied before transmission (R7). -/
def fcsXorOut : Word := 0xFFFF
/-- `FCS_GOOD`, the accumulator after a valid frame and its FCS (R7). -/
def fcsGood : Word := 0xF0B8
/-- `FCS_POLY`, the reflected polynomial the table is built from (R7). -/
def fcsPoly : Word := 0x8408

/-- Supervisory type codes (R7, R78). -/
def receiveReady : BitVec 2 := 0
@[inherit_doc receiveReady] def reject : BitVec 2 := 1
@[inherit_doc receiveReady] def receiveNotReady : BitVec 2 := 2
@[inherit_doc receiveReady] def selectiveReject : BitVec 2 := 3

/-- The two unnumbered type codes the source shows: mode-set 8, acknowledge 12 (R79). -/
def modeSet : BitVec 5 := 8
@[inherit_doc modeSet] def acknowledge : BitVec 5 := 12

/-- Priorities the surrounding software uses (R7): application writes 0, protocol control responses 1,
handshake initiation 3. -/
def prioApplication : Nat := 0
@[inherit_doc prioApplication] def prioResponse : Nat := 1
@[inherit_doc prioApplication] def prioHandshake : Nat := 3

/-- OPEN parameters of the instance at reset (R6, U6; log 1): no body, so nothing can be proved of their values.
`RX_CAP` and `TXQ_DEPTH` are at least 1, so each is one more than a free natural. -/
opaque rxCapLessOne : Nat
@[inherit_doc rxCapLessOne] opaque txCap : Nat
@[inherit_doc rxCapLessOne] opaque txqDepthLessOne : Nat
@[inherit_doc rxCapLessOne] opaque writeTimeoutMs : Nat
@[inherit_doc rxCapLessOne] opaque writeRetries : Nat

end Config

/-- The parameters of one instance, constant for its life (R6, D20, D24). `none` in `txqDepth` or `timeW` is
the unbounded choice the spec allows (D14, D17). -/
structure Params where
  rxCap : Nat
  txCap : Nat
  txqDepth : Option Nat
  writeTimeoutMs : Nat
  writeRetries : Nat
  prioW : Nat
  timeW : Option Nat
deriving DecidableEq, Repr

/-- `OUT_CAP`, the capacity of `TX_OUT` (R6, R142). -/
def Params.outCap (p : Params) : Nat := 2 * p.txCap + 10

/-- `PAY_CAP`, the capacity of `RX_PAY`: `max(RX_CAP - 4, 0)` (R6, R35). -/
def Params.payCap (p : Params) : Nat := p.rxCap - 4

/-- The constraints on the parameters (D20): the rules are claimed for no other values (U5). -/
def Params.legal (p : Params) : Bool :=
  decide (1 ≤ p.rxCap) &&
  (match p.txqDepth with
   | none => true
   | some d => decide (1 ≤ d)) &&
  decide (2 ≤ p.prioW)

/-- The parameters of the instance that `State.reset` describes: the OPEN ones free, `PRIO_W` 2 as R6 has it
"unless the model is given another", `TIME_W` unbounded as R6 allows a model (log 1). -/
def Config.params : Params where
  rxCap := Config.rxCapLessOne + 1
  txCap := Config.txCap
  txqDepth := some (Config.txqDepthLessOne + 1)
  writeTimeoutMs := Config.writeTimeoutMs
  writeRetries := Config.writeRetries
  prioW := 2
  timeW := none

end Sys2Proof
end

