-- ==== Sys2Proof/Syntax.lean ====
section
/-! DEFINITION. Frames (spec/00_scope.md R13), the instructions (one constructor for each of the 30 rows of
spec/opcode_table.json: the seventeen operations of R8 and the thirteen wire units of spec/30_encoding.md R89), and
the form in which the host presents an instruction to the block. -/

namespace Sys2Proof

/-- The variant and fields of a frame, all but its address (R13); what `unpack_control` returns (R131). -/
inductive Control where
  /-- Information: `nr`, `pf`, `ns`. -/
  | information (nr : BitVec 3) (pf : BitVec 1) (ns : BitVec 3)
  /-- Supervisory: `nr`, `pf`, `stype`. -/
  | supervisory (nr : BitVec 3) (pf : BitVec 1) (stype : BitVec 2)
  /-- Unnumbered: `pf`, `utype`. -/
  | unnumbered (pf : BitVec 1) (utype : BitVec 5)
deriving DecidableEq, Repr

/-- A frame (R13): the address every variant has, and the variant with its other fields. `none : Option Frame`
is the absence of a frame. -/
structure Frame where
  address : Byte
  control : Control
deriving DecidableEq, Repr

/-- The operand `kind` of `TX_REMOVE`: one of `I`, `S`, `U` (R85, R190). -/
inductive Kind where
  | information
  | supervisory
  | unnumbered
deriving DecidableEq, Repr

/-- One constructor per row of spec/opcode_table.json. -/
inductive Instr where
  /-- `FCS_INIT`, command 0x00 (R104). -/
  | fcsInit
  /-- `FCS_UPDATE b`, command 0x01 (R105). -/
  | fcsUpdate (b : Byte)
  /-- `FCS_READ`, command 0x02 (R106). -/
  | fcsRead
  /-- `FCS_FINAL`, command 0x03 (R107). -/
  | fcsFinal
  /-- `FCS_CHECK`, command 0x04 (R108). -/
  | fcsCheck
  /-- `ESC_BYTE v`, command 0x08 (R121). -/
  | escByte (v : Byte)
  /-- `ENCODE frame, payload`, command 0x09 (R140). -/
  | encode (frame : Frame) (payload : List Byte)
  /-- `DECODE input`, command 0x0A (R145). -/
  | decode (input : List Byte)
  /-- `RX_WRITE bytes`, command 0x10 (R161). -/
  | rxWrite (bytes : List Byte)
  /-- `RX_READ_FRAME`, command 0x11 (R162). -/
  | rxReadFrame
  /-- `RX_RESET`, command 0x12 (R163). -/
  | rxReset
  /-- `RX_STATUS`, command 0x13 (R164). -/
  | rxStatus
  /-- `TX_WRITE_FRAME frame, payload, priority, retryable`, command 0x18 (R184). -/
  | txWriteFrame (frame : Frame) (payload : List Byte) (priority : Nat) (retryable : Bool)
  /-- `TX_READ elapsed_ms`, command 0x19 (R185). -/
  | txRead (elapsedMs : Nat)
  /-- `TX_REMOVE kind, key`, command 0x1A (R190). -/
  | txRemove (kind : Kind) (key : BitVec 5)
  /-- `TX_RESET`, command 0x1B (R192). -/
  | txReset
  /-- `TX_STATUS`, command 0x1C (R193). -/
  | txStatus
  /-- `CTRL_INFORMATION`: an Information control byte on the wire (R73, R74). -/
  | ctrlInformation (nr : BitVec 3) (pf : BitVec 1) (ns : BitVec 3)
  /-- `CTRL_SUPERVISORY`: a Supervisory control byte on the wire (R73, R74). -/
  | ctrlSupervisory (nr : BitVec 3) (pf : BitVec 1) (stype : BitVec 2)
  /-- `CTRL_UNNUMBERED`: an Unnumbered control byte on the wire (R73, R74). -/
  | ctrlUnnumbered (pf : BitVec 1) (utype : BitVec 5)
  /-- `CTRL_S_RECEIVE_READY`: Supervisory type 0 (R78). -/
  | ctrlReceiveReady (nr : BitVec 3) (pf : BitVec 1)
  /-- `CTRL_S_REJECT`: Supervisory type 1 (R78). -/
  | ctrlReject (nr : BitVec 3) (pf : BitVec 1)
  /-- `CTRL_S_RECEIVE_NOT_READY`: Supervisory type 2 (R78). -/
  | ctrlReceiveNotReady (nr : BitVec 3) (pf : BitVec 1)
  /-- `CTRL_S_SELECTIVE_REJECT`: Supervisory type 3 (R78). -/
  | ctrlSelectiveReject (nr : BitVec 3) (pf : BitVec 1)
  /-- `CTRL_U_TYPE8_MODE_SET`: Unnumbered type 8 (R79). -/
  | ctrlModeSet (pf : BitVec 1)
  /-- `CTRL_U_TYPE12_ACKNOWLEDGE`: Unnumbered type 12 (R79). -/
  | ctrlAcknowledge (pf : BitVec 1)
  /-- `FLAG`: the raw octet 0x7E (R71, R88). -/
  | flag
  /-- `ESCAPE`: the raw octet 0x7D (R71, R88). -/
  | escape
  /-- `ESC_FLAG`: the raw octets 7D 5E (R72). -/
  | escFlag
  /-- `ESC_ESCAPE`: the raw octets 7D 5D (R72). -/
  | escEscape
deriving DecidableEq, Repr

/-- Whether an instruction is one of the seventeen operations of R8 (`true`) or a unit of the raw octet stream
(`false`, the rows of formats CTRL, OCTET and ESCSEQ, R89). -/
def Instr.isOperation : Instr → Bool
  | .fcsInit | .fcsUpdate _ | .fcsRead | .fcsFinal | .fcsCheck => true
  | .escByte _ | .encode _ _ | .decode _ => true
  | .rxWrite _ | .rxReadFrame | .rxReset | .rxStatus => true
  | .txWriteFrame _ _ _ _ | .txRead _ | .txRemove _ _ | .txReset | .txStatus => true
  | .ctrlInformation _ _ _ | .ctrlSupervisory _ _ _ | .ctrlUnnumbered _ _ => false
  | .ctrlReceiveReady _ _ | .ctrlReject _ _ | .ctrlReceiveNotReady _ _ | .ctrlSelectiveReject _ _ => false
  | .ctrlModeSet _ | .ctrlAcknowledge _ => false
  | .flag | .escape | .escFlag | .escEscape => false

/-- One operand as the host presents it with a command code (R83, R85; the form is the model's, log 5):
a byte, a frame `{address, control}` (R82) or a byte sequence as octets; `priority`, `retryable`, `elapsed_ms`,
`kind` and `key` as numbers. -/
inductive Operand where
  | octets (s : List Byte)
  | number (n : Nat)
deriving DecidableEq, Repr

/-- What the host presents in one go: a command (format CMD of the table), or a unit of the raw octet stream in
one of the wire formats (CTRL, OCTET, ESCSEQ; R89). The format is told by the place a word stands in, not by its bits, so it
is part of what is presented (log 7). -/
inductive Issue where
  /-- A command code and its operands (R83). -/
  | command (code : Byte) (operands : List Operand)
  /-- A control byte, read as one of the three formats of R74. -/
  | controlVariant (c : Byte)
  /-- A control byte, read as one of the named types of R78 and R79 where it has one. -/
  | controlType (c : Byte)
  /-- One raw octet (R71, R88). -/
  | octet (x : Byte)
  /-- Two raw octets, read as an escape sequence where they are one (R72). -/
  | escapePair (x y : Byte)
deriving DecidableEq, Repr

end Sys2Proof
end

