-- ==== Sys2Proof/WellFormed.lean ====
section
/-! DEFINITION. Which instructions have operands inside the bounds of spec/30_encoding.md R85 (with
spec/93_implementation_defined.md U3). Everything else the spec asks of an operand (a 3-bit `nr`, a 5-bit `key`,
a `kind` of three) is already in its type. -/

namespace Sys2Proof

/-- `elapsed_ms` is a natural of `TIME_W` bits, or any natural where `TIME_W` is unbounded (R85, D17). -/
def Params.timeFits (p : Params) (elapsedMs : Nat) : Bool :=
  match p.timeW with
  | none => true
  | some w => decide (elapsedMs < 2 ^ w)

/-- The operand bounds of R85. `RX_WRITE` and `TX_WRITE_FRAME` take byte sequences of any length, and every
`TX_REMOVE` key is legal (U3). -/
def Instr.wellFormed (p : Params) : Instr → Bool
  | .encode _ payload => decide (payload.length ≤ p.txCap)
  | .decode input => decide (input.length ≤ p.rxCap)
  | .txWriteFrame _ _ priority _ => decide (priority < 2 ^ p.prioW)
  | .txRead elapsedMs => p.timeFits elapsedMs
  | .fcsInit | .fcsUpdate _ | .fcsRead | .fcsFinal | .fcsCheck | .escByte _ => true
  | .rxWrite _ | .rxReadFrame | .rxReset | .rxStatus => true
  | .txRemove _ _ | .txReset | .txStatus => true
  | .ctrlInformation _ _ _ | .ctrlSupervisory _ _ _ | .ctrlUnnumbered _ _ => true
  | .ctrlReceiveReady _ _ | .ctrlReject _ _ | .ctrlReceiveNotReady _ _ | .ctrlSelectiveReject _ _ => true
  | .ctrlModeSet _ | .ctrlAcknowledge _ => true
  | .flag | .escape | .escFlag | .escEscape => true

end Sys2Proof
end

