-- ==== Sys2Proof/Decode.lean ====
section
/-! DEFINITION. The control byte (spec/42_frame_codec.md R130 to R133, spec/30_encoding.md R73 to R79), the decoder
from what the host presents to an instruction (total, refusing by name), the encoder back, and the reading of a
word of spec/opcode_table.json. -/

namespace Sys2Proof

/-! ### The control byte -/

/-- `pack_control` (R130), written as the bit layouts of R73: bit 7 on the left. -/
def packControl : Control → Byte
  | .information nr pf ns => nr ++ pf ++ ns ++ 0#1
  | .supervisory nr pf stype => nr ++ pf ++ stype ++ 0b01#2
  | .unnumbered pf utype => utype.extractLsb' 2 3 ++ pf ++ utype.extractLsb' 0 2 ++ 0b11#2

/-- `unpack_control` (R131): the variant by the low bits (R74), the fields by R75 and R76. -/
def unpackControl (c : Byte) : Control :=
  if c.getLsbD 0 = false then
    .information (c.extractLsb' 5 3) (c.extractLsb' 4 1) (c.extractLsb' 1 3)
  else if c.getLsbD 1 = false then
    .supervisory (c.extractLsb' 5 3) (c.extractLsb' 4 1) (c.extractLsb' 2 2)
  else
    .unnumbered (c.extractLsb' 4 1) (c.extractLsb' 5 3 ++ c.extractLsb' 2 2)

/-- `frame_of(a, c)` (R133): the frame of an address octet and a control octet. -/
def frameOf (a c : Byte) : Frame := { address := a, control := unpackControl c }

/-- The control octet of a frame: with its address, the pair of R82. -/
def Frame.controlByte (f : Frame) : Byte := packControl f.control

/-- The 16-bit descriptor of R82: `desc[15:8] = address`, `desc[7:0] = control`. -/
def Frame.descriptor (f : Frame) : Word := f.address ++ f.controlByte

/-- The frame a descriptor stands for (R82). -/
def frameOfDescriptor (d : Word) : Frame := frameOf (d.extractLsb' 8 8) (d.extractLsb' 0 8)

/-! ### Decoding what the host presents -/

/-- Why a command the host presents is no instruction: "a model refuses it" (R84, R85; D28, U3, U4). Nothing of the state
changes. No unit of the raw octet stream is refused (R80, U8). -/
inductive DecodeError where
  /-- A command code R83 does not assign (R84, U4). -/
  | unassignedCode (code : Byte)
  /-- The operands are not as many, or not of the kind, R85 gives the command. -/
  | operandShape (code : Byte)
  /-- A number operand outside its type: a `kind` that is none of the three, a `key` of more than 5 bits, a
  `retryable` of more than 1 bit (R85, U3). -/
  | operandValue (code : Byte)
deriving DecidableEq, Repr

/-- What a presented word decodes to: an instruction of the table, or raw octets for which the table has no row, an octet
that stands for itself (R71, last column of R88) or a pair that is neither sequence of R72. -/
inductive Decoded where
  | instr (i : Instr)
  | raw (xs : List Byte)
deriving DecidableEq, Repr

/-- The number that stands for a `kind` (log 5): I 0, S 1, U 2. -/
def kindNumber : Kind → Nat
  | .information => 0
  | .supervisory => 1
  | .unnumbered => 2

/-- The `kind` a number stands for, none for any other number (U3). -/
def kindOfNumber : Nat → Option Kind
  | 0 => some .information
  | 1 => some .supervisory
  | 2 => some .unnumbered
  | _ => none

/-- A command without operands. -/
def decodeBare (i : Instr) (code : Byte) : List Operand → Except DecodeError Instr
  | [] => .ok i
  | _ => .error (.operandShape code)

/-- A command with one byte operand (`b`, `v`). -/
def decodeByteOperand (mk : Byte → Instr) (code : Byte) : List Operand → Except DecodeError Instr
  | [.octets [b]] => .ok (mk b)
  | _ => .error (.operandShape code)

/-- A command with one byte-sequence operand. -/
def decodeSequenceOperand (mk : List Byte → Instr) (code : Byte) : List Operand → Except DecodeError Instr
  | [.octets s] => .ok (mk s)
  | _ => .error (.operandShape code)

/-- `ENCODE frame, payload`. -/
def decodeEncodeOperands (code : Byte) : List Operand → Except DecodeError Instr
  | [.octets [a, c], .octets payload] => .ok (.encode (frameOf a c) payload)
  | _ => .error (.operandShape code)

/-- `TX_WRITE_FRAME frame, payload, priority, retryable`. -/
def decodeTxWriteOperands (code : Byte) : List Operand → Except DecodeError Instr
  | [.octets [a, c], .octets payload, .number priority, .number r] =>
    match r with
    | 0 => .ok (.txWriteFrame (frameOf a c) payload priority false)
    | 1 => .ok (.txWriteFrame (frameOf a c) payload priority true)
    | _ => .error (.operandValue code)
  | _ => .error (.operandShape code)

/-- `TX_READ elapsed_ms`. -/
def decodeTxReadOperands (code : Byte) : List Operand → Except DecodeError Instr
  | [.number e] => .ok (.txRead e)
  | _ => .error (.operandShape code)

/-- `TX_REMOVE kind, key`. -/
def decodeTxRemoveOperands (code : Byte) : List Operand → Except DecodeError Instr
  | [.number k, .number key] =>
    match kindOfNumber k with
    | some kind => if key < 32 then .ok (.txRemove kind (BitVec.ofNat 5 key)) else .error (.operandValue code)
    | none => .error (.operandValue code)
  | _ => .error (.operandShape code)

/-- The command codes of R83, each with the operands of R85. Every other code is unassigned (R84). -/
def decodeCommand (code : Byte) (operands : List Operand) : Except DecodeError Instr :=
  match code.toNat with
  | 0x00 => decodeBare .fcsInit code operands
  | 0x01 => decodeByteOperand .fcsUpdate code operands
  | 0x02 => decodeBare .fcsRead code operands
  | 0x03 => decodeBare .fcsFinal code operands
  | 0x04 => decodeBare .fcsCheck code operands
  | 0x08 => decodeByteOperand .escByte code operands
  | 0x09 => decodeEncodeOperands code operands
  | 0x0A => decodeSequenceOperand .decode code operands
  | 0x10 => decodeSequenceOperand .rxWrite code operands
  | 0x11 => decodeBare .rxReadFrame code operands
  | 0x12 => decodeBare .rxReset code operands
  | 0x13 => decodeBare .rxStatus code operands
  | 0x18 => decodeTxWriteOperands code operands
  | 0x19 => decodeTxReadOperands code operands
  | 0x1A => decodeTxRemoveOperands code operands
  | 0x1B => decodeBare .txReset code operands
  | 0x1C => decodeBare .txStatus code operands
  | _ => .error (.unassignedCode code)

/-- The three formats of R74: disjoint, and together all 256 control bytes. -/
def decodeControlVariant (c : Byte) : Instr :=
  match unpackControl c with
  | .information nr pf ns => .ctrlInformation nr pf ns
  | .supervisory nr pf stype => .ctrlSupervisory nr pf stype
  | .unnumbered pf utype => .ctrlUnnumbered pf utype

/-- The named types: the four Supervisory types of R78 and the two Unnumbered types of R79. A control byte that has none
of them is as legal as any (R80 (a)) and is read by its format; that it may be presented so is the model's choice
(DESIGN CHOICE, log 7). -/
def decodeControlType (c : Byte) : Instr :=
  match unpackControl c with
  | .information _ _ _ => decodeControlVariant c
  | .supervisory nr pf stype =>
    if stype = Config.receiveReady then .ctrlReceiveReady nr pf
    else if stype = Config.reject then .ctrlReject nr pf
    else if stype = Config.receiveNotReady then .ctrlReceiveNotReady nr pf
    else .ctrlSelectiveReject nr pf
  | .unnumbered pf utype =>
    if utype = Config.modeSet then .ctrlModeSet pf
    else if utype = Config.acknowledge then .ctrlAcknowledge pf
    else decodeControlVariant c

/-- One raw octet: the two reserved ones are instructions, every other stands for itself (R71). -/
def decodeOctet (x : Byte) : Decoded :=
  if x = Config.flag then .instr .flag
  else if x = Config.escape then .instr .escape
  else .raw [x]

/-- The two escape sequences the encoder produces (R72). Any other pair is two raw octets of the stream, read as such:
the parser accepts more than the encoder produces (R72). That it may be presented so is the model's choice
(DESIGN CHOICE, log 7). -/
def decodeEscapePair (x y : Byte) : Decoded :=
  if x = Config.escape ∧ y = Config.flag ^^^ Config.escXor then .instr .escFlag
  else if x = Config.escape ∧ y = Config.escape ^^^ Config.escXor then .instr .escEscape
  else .raw [x, y]

/-- An instruction, as something decoded. -/
def asDecoded : Except DecodeError Instr → Except DecodeError Decoded
  | .ok i => .ok (.instr i)
  | .error e => .error e

/-- The decoder: total on whatever the host presents, refusing by name what is no command (R84, R85). -/
def decodeIssue : Issue → Except DecodeError Decoded
  | .command code operands => asDecoded (decodeCommand code operands)
  | .controlVariant c => .ok (.instr (decodeControlVariant c))
  | .controlType c => .ok (.instr (decodeControlType c))
  | .octet x => .ok (decodeOctet x)
  | .escapePair x y => .ok (decodeEscapePair x y)

/-! ### Encoding -/

/-- A frame operand (R82): address and control octets. -/
def frameOperand (f : Frame) : Operand := .octets [f.address, f.controlByte]

/-- What the host presents for an instruction: the command code of R83 with the operands of R85, or the wire unit
of R73, R71 or R72. -/
def encode : Instr → Issue
  | .fcsInit => .command 0x00 []
  | .fcsUpdate b => .command 0x01 [.octets [b]]
  | .fcsRead => .command 0x02 []
  | .fcsFinal => .command 0x03 []
  | .fcsCheck => .command 0x04 []
  | .escByte v => .command 0x08 [.octets [v]]
  | .encode frame payload => .command 0x09 [frameOperand frame, .octets payload]
  | .decode input => .command 0x0A [.octets input]
  | .rxWrite bytes => .command 0x10 [.octets bytes]
  | .rxReadFrame => .command 0x11 []
  | .rxReset => .command 0x12 []
  | .rxStatus => .command 0x13 []
  | .txWriteFrame frame payload priority retryable =>
    .command 0x18 [frameOperand frame, .octets payload, .number priority, .number retryable.toNat]
  | .txRead elapsedMs => .command 0x19 [.number elapsedMs]
  | .txRemove kind key => .command 0x1A [.number (kindNumber kind), .number key.toNat]
  | .txReset => .command 0x1B []
  | .txStatus => .command 0x1C []
  | .ctrlInformation nr pf ns => .controlVariant (packControl (.information nr pf ns))
  | .ctrlSupervisory nr pf stype => .controlVariant (packControl (.supervisory nr pf stype))
  | .ctrlUnnumbered pf utype => .controlVariant (packControl (.unnumbered pf utype))
  | .ctrlReceiveReady nr pf => .controlType (packControl (.supervisory nr pf Config.receiveReady))
  | .ctrlReject nr pf => .controlType (packControl (.supervisory nr pf Config.reject))
  | .ctrlReceiveNotReady nr pf => .controlType (packControl (.supervisory nr pf Config.receiveNotReady))
  | .ctrlSelectiveReject nr pf => .controlType (packControl (.supervisory nr pf Config.selectiveReject))
  | .ctrlModeSet pf => .controlType (packControl (.unnumbered pf Config.modeSet))
  | .ctrlAcknowledge pf => .controlType (packControl (.unnumbered pf Config.acknowledge))
  | .flag => .octet Config.flag
  | .escape => .octet Config.escape
  | .escFlag => .escapePair Config.escape 0x5E
  | .escEscape => .escapePair Config.escape 0x5D

/-! ### Words of the opcode table

The table numbers the bits of four formats separately, so one word can stand in two of them (0x00 is `FCS_INIT`
and also a `CTRL_INFORMATION` byte). Which format a bare word is read in is the model's choice (log 7). -/

/-- The operands of an assigned command when every operand is zero or empty, none for an unassigned code. -/
def zeroOperands (code : Byte) : Option (List Operand) :=
  match code.toNat with
  | 0x00 | 0x02 | 0x03 | 0x04 | 0x11 | 0x12 | 0x13 | 0x1B | 0x1C => some []
  | 0x01 | 0x08 => some [.octets [0]]
  | 0x09 => some [.octets [0, 0], .octets []]
  | 0x0A | 0x10 => some [.octets []]
  | 0x18 => some [.octets [0, 0], .octets [], .number 0, .number 0]
  | 0x19 => some [.number 0]
  | 0x1A => some [.number 0, .number 0]
  | _ => none

/-- An 8-bit word of the table: a command where R83 assigns the code, else a reserved octet, else a control byte, by
its named type where it has one. -/
def tableOctetIssue (b : Byte) : Issue :=
  match zeroOperands b with
  | some operands => .command b operands
  | none => if b = Config.flag ∨ b = Config.escape then .octet b else .controlType b

/-- What is presented for a word of the table: 8 bits as above; 16 bits an escape sequence, its marker in bits
15..8 as the table has it, first on the wire. No row has another width. -/
def tableIssue (nbits w : Nat) : Option Issue :=
  if nbits = 8 then some (tableOctetIssue (BitVec.ofNat 8 w))
  else if nbits = 16 then some (.escapePair (BitVec.ofNat 8 (w / 256)) (BitVec.ofNat 8 w))
  else none

/-- The instruction the decoder reads from a word of the opcode table. -/
def decodeTableWord (nbits w : Nat) : Option Instr :=
  match tableIssue nbits w with
  | none => none
  | some issue =>
    match decodeIssue issue with
    | .ok (.instr i) => some i
    | .ok (.raw _) => none
    | .error _ => none

end Sys2Proof
end

