-- ==== Sys2Proof/Machine/State.lean ====
section
/-! DEFINITION. The state of one instance of the block (spec/10_state.md R22 to R41), the outcomes the host is given
(spec/60_exceptions.md R250, spec/30_encoding.md R85), the reasons a step can stop, and the state after reset
(spec/70_reset_and_hazards.md R281). -/

namespace Sys2Proof.Machine

/-- Nothing in the block is a fault: "the rules give every operation on every state and every in-type operand a
result" (spec/93_implementation_defined.md part 1; R265). So there is no constructor (log 15). -/
inductive Fault where
deriving DecidableEq, Repr

/-- Why the model has no meaning for a step (R265 (c)). Each is raised before any state changes. -/
inductive Refusal where
  /-- Raised by `exec` for an instruction without a meaning. No arm raises it. Safe. -/
  | notModelled (mnemonic : String)
  /-- Raised by `step`: the host presented a command code that is not assigned, or operands that are not those of the
  command (R84, R85: "a model refuses it"; U3, U4). Safe. -/
  | undecodable (reason : DecodeError)
  /-- Raised by `step`: the parameters of the instance break the constraints of D20 (U5). Safe. -/
  | illegalInstance
  /-- Raised by `ENCODE`: a payload longer than `TX_CAP` (R85, U3). Safe. -/
  | payloadAboveTxCap
  /-- Raised by `DECODE`: an input longer than `RX_CAP` (R85, U3). Safe. -/
  | inputAboveRxCap
  /-- Raised by `TX_WRITE_FRAME`: a priority of `2^PRIO_W` or more (R85, U3). Safe. -/
  | priorityAboveWidth
  /-- Raised by `TX_READ`: an `elapsed_ms` of `2^TIME_W` or more (R85, U3). Safe. -/
  | elapsedAboveWidth
deriving DecidableEq, Repr

/-- A byte space of the block (R50): cells (address, byte), addresses strictly rising. An address that is not listed
reads as no value (log 3, log 4). -/
abbrev Memory := List Host.Cell

/-- One pending-frame item of the send queue (R30). -/
structure Item where
  off : Nat
  len : Nat
  frame : Frame
  prio : Nat
  retryable : Bool
  ageMs : Nat
  attempts : Nat
deriving DecidableEq, Repr

/-- The error results of R250. -/
inductive Error where
  /-- `ERR_RX_CAPACITY` (R251). -/
  | rxCapacity
  /-- `ERR_TX_CAPACITY` (R252). -/
  | txCapacity
  /-- `ERR_TX_TIMEOUT` (R253). -/
  | txTimeout
deriving DecidableEq, Repr

/-- The five results of `decode_frame` (R145). -/
structure DecodeResult where
  consumed : Nat
  payloadLength : Nat
  frame : Option Frame
  valid : Bool
  payload : List Byte
deriving DecidableEq, Repr

/-- Where in a scan a raw octet stands: the four rows of the table of R88. -/
inductive Place where
  /-- `HUNT`: no flag seen yet. -/
  | hunt
  /-- `OPEN`: in the opening run of flags, no content yet. -/
  | opening
  /-- `CONTENT`, no escape pending. -/
  | content
  /-- `CONTENT`, escape pending. -/
  | pending
deriving DecidableEq, Repr

/-- What raw octets mean when they are read at one place (R88): the place after them, the octets they decode to, and for
each frame they end, whether it ends with an escape pending and so is invalid for that reason alone. -/
structure Reading where
  after : Place
  decoded : List Byte
  frameEnds : List Bool
deriving DecidableEq, Repr

/-- What raw octets mean at each place of a scan: the four rows of the table of R88. -/
structure Readings where
  hunt : Reading
  opening : Reading
  content : Reading
  pending : Reading
deriving DecidableEq, Repr

/-- What the host receives when an operation completes (R85, R250). -/
inductive Response where
  /-- No operation has completed yet. -/
  | idle
  /-- `OK` with no further result: `FCS_INIT`, `FCS_UPDATE`, `RX_WRITE`, `RX_RESET`, `TX_WRITE_FRAME`, `TX_RESET`. -/
  | done
  /-- `FCS_READ`: `acc`. -/
  | accumulator (acc : Word)
  /-- `FCS_FINAL`: `fcs_lo`, `fcs_hi`. -/
  | fcsBytes (lo hi : Byte)
  /-- `FCS_CHECK`: `good`. -/
  | good (g : Bool)
  /-- `ESC_BYTE`, `ENCODE`: a byte sequence. -/
  | octets (s : List Byte)
  /-- `DECODE`: its five results. -/
  | decoded (r : DecodeResult)
  /-- `RX_READ_FRAME`: `payload_length`, `frame`, `valid`; the payload is in `RX_PAY`. -/
  | frameRead (payloadLength : Nat) (frame : Option Frame) (valid : Bool)
  /-- `RX_STATUS`: `RX_LEN`. -/
  | rxLength (n : Nat)
  /-- `TX_READ`: `byte_length`; the bytes are in `TX_OUT`. -/
  | sent (byteLength : Nat)
  /-- `TX_REMOVE`: `removed`. -/
  | removed (r : Bool)
  /-- `TX_STATUS`: `TX_LEN`, `len(TXQ)`. -/
  | txLengths (bytes items : Nat)
  /-- An error result (R250). -/
  | error (e : Error)
  /-- A unit of the raw octet stream: what its octets mean at each place of a scan (R88) and, for a control byte, the
  variant and fields it stands for (R131) (log 8). -/
  | read (readings : Readings) (control : Option Control)
deriving DecidableEq, Repr

/-- One instance of the block (R22), with its parameters (R6), and the two fields of the model's own: the last response and
what the host has issued (log 6, log 11). Nothing of a scan is kept (R37).
`FCS_TABLE` is the constant `fcsTable` (log 2); `RX_LEN` and `TX_LEN` are the numbers of cells held (log 3). -/
structure State where
  /-- The parameters of the instance; no step writes them (R6, D24). -/
  params : Params
  /-- `FCS_ACC` (R23). -/
  fcsAcc : Word
  /-- `RX_BUF[0..RX_LEN)` (R25). -/
  rxBuf : Memory
  /-- `RX_PAY`, the bytes of it that are specified (R35). -/
  rxPay : Memory
  /-- `TX_BUF[0..TX_LEN)` (R28). -/
  txBuf : Memory
  /-- `TXQ` in service order, the head first (R30, R31). -/
  txq : List Item
  /-- `TX_OUT`, the bytes of it that are specified (R34). -/
  txOut : Memory
  /-- The outcome of the last operation (R9, R250). -/
  response : Response
  /-- What the host has issued and the block has not yet taken, the next first (R9, R58). -/
  host : List Issue
deriving DecidableEq, Repr

/-- The state after reset and of a new instance (R39, R281): the accumulator `0xFFFF`, nothing held, no item. The
result buffers are unspecified, so no byte of them is listed. -/
def State.reset : State where
  params := Config.params
  fcsAcc := Config.fcsInit
  rxBuf := []
  rxPay := []
  txBuf := []
  txq := []
  txOut := []
  response := .idle
  host := []

end Sys2Proof.Machine
end

