-- ==== Sys2Proof/Machine/Ops.lean ====
section
/-! DEFINITION. The shared operations: the byte buffers and their primitives (spec/20_memory.md R54 to R57,
spec/00_scope.md R12), completing an operation, delivering an error result (spec/60_exceptions.md R258) and taking
what the host has issued next. -/

namespace Sys2Proof.Machine

/-! ### Byte buffers -/

/-- The cells of a byte sequence laid out from an address. -/
def Memory.ofBytesFrom (a : Nat) : List Byte → Memory
  | [] => []
  | b :: rest => (a, b) :: Memory.ofBytesFrom (a + 1) rest

/-- A buffer that holds a byte sequence at offset 0 and above (R54). -/
def Memory.ofBytes (s : List Byte) : Memory := Memory.ofBytesFrom 0 s

/-- The bytes a buffer holds, the lowest address first. -/
def Memory.bytes (m : Memory) : List Byte := m.map Prod.snd

/-- Reading one byte: no value where nothing is held (log 3). -/
def Memory.read (m : Memory) (a : Nat) : Option Byte := List.lookup a m

/-- The canonical form (R54): the addresses are 0, 1, 2, … in this order, without a gap. -/
def Memory.wf (m : Memory) : Bool := m.map Prod.fst == List.range m.length

/-- Contents the spec leaves unspecified: no byte is listed (log 4). -/
def Memory.unspecified : Memory := []

/-- `MemRead(S, a, n)` (R12): the `n` bytes at offsets `a` to `a + n - 1`. -/
def memRead (m : Memory) (a n : Nat) : List Byte := (m.bytes.drop a).take n

/-- `MemWrite(S, a, n, v)` with `n = len(v)` (R12). -/
def memWrite (m : Memory) (a : Nat) (v : List Byte) : Memory :=
  Memory.ofBytes (m.bytes.take a ++ v ++ m.bytes.drop (a + v.length))

/-- `append(BUF, LEN, CAP, v)` (R55): none when `v` is longer than the space that remains, and then nothing is
written; otherwise `v` stands at offset `LEN` and above. -/
def appendBytes (m : Memory) (cap : Nat) (v : List Byte) : Option Memory :=
  if cap - m.length < v.length then none else some (memWrite m m.length v)

/-- `consume_front(c)` (R56): the byte that was at offset `c + i` is at offset `i`, and the length is less by `c`. -/
def consumeFront (m : Memory) (c : Nat) : Memory := Memory.ofBytes (memRead m c (m.length - c))

/-- `cut(o, l)` (R57): the byte that was at offset `o + l + i` is at offset `o + i`, and the length is less by `l`. -/
def cut (m : Memory) (o l : Nat) : Memory :=
  Memory.ofBytes (memRead m 0 o ++ memRead m (o + l) (m.length - (o + l)))

/-- `RX_LEN` (R26): the number of bytes held in `RX_BUF` (log 3). -/
def State.rxLen (s : State) : Nat := s.rxBuf.length

/-- `TX_LEN` (R29): the number of bytes held in `TX_BUF` (log 3). -/
def State.txLen (s : State) : Nat := s.txBuf.length

/-! ### Ending an operation -/

/-- A normal result (R250 code 0): the host receives `r`. -/
def complete (r : Response) (s : State) : Host.Outcome State Fault Refusal := .next { s with response := r }

/-- An error result (R258): it is delivered as the result of the operation, and nothing else happens: no register
is saved, no mode changes, control goes nowhere. `s` is the state the operation leaves (R251 to R253). There is no
return from it (R259): any operation may follow at once. -/
def raise (e : Error) (s : State) : Host.Outcome State Fault Refusal := .next { s with response := .error e }

/-! ### What the host has issued -/

/-- What the host has issued next, and the state without it; none when the host has issued nothing (R58, log 6). -/
def fetch (s : State) : Option (Issue × State) :=
  match s.host with
  | [] => none
  | issue :: rest => some (issue, { s with host := rest })

/-- The state in which the host has issued `issue` next, before everything it had issued already. -/
def State.issue (issue : Issue) (s : State) : State := { s with host := issue :: s.host }

end Sys2Proof.Machine
end

