-- ==== Sys2Proof/Machine/Flags.lean ====
section
/-! DEFINITION. The flags the block produces (spec/10_state.md R36): each is a result of one operation and none is
kept. With them the conditions `TX_READ` tests (spec/44_sender.md R187, R188) and the status code of an outcome
(spec/60_exceptions.md R250). -/

namespace Sys2Proof.Machine

/-- `good` (R108): all 16 bits equal `0xF0B8`. -/
def residueGood (acc : Word) : Bool := acc == Config.fcsGood

/-- `valid` (R147): at least 4 decoded octets, no escape left pending, and the residue. The three causes of
`valid = 0` are not told apart. -/
def frameValid (n : Nat) (pending : Bool) (acc : Word) : Bool :=
  decide (4 ≤ n) && !pending && residueGood acc

/-- Whether an age is due (R187): equal to or above the timeout. -/
def ageDue (p : Params) (ageMs : Nat) : Bool := decide (p.writeTimeoutMs ≤ ageMs)

/-- Whether the attempts exceed the retry budget (R188). -/
def attemptsExhausted (p : Params) (attempts : Nat) : Bool := decide (p.writeRetries + 1 < attempts)

/-- Whether the queue holds `TXQ_DEPTH` items; never where the depth is unbounded (R184, D14). -/
def queueFull (p : Params) (q : List Item) : Bool :=
  match p.txqDepth with
  | none => false
  | some d => decide (q.length = d)

/-- The number of an error (R250, D21). -/
def Error.code : Error → Nat
  | .rxCapacity => 1
  | .txCapacity => 2
  | .txTimeout => 3

/-- The status code of an outcome (R250): 0 for every normal result. -/
def Response.status : Response → Nat
  | .error e => e.code
  | _ => 0

end Sys2Proof.Machine
end

