-- ==== Sys2Proof/Machine/Stuffing.lean ====
section
/-! DEFINITION. The byte-stuffing codec (spec/41_stuffing.md R120, R123, R124). -/

namespace Sys2Proof.Machine

/-- `escape(v)` (R120): a reserved octet becomes the marker and the octet XORed with `0x20`. -/
def escapeOctet (v : Byte) : List Byte :=
  if v = Config.flag ∨ v = Config.escape then [Config.escape, v ^^^ Config.escXor] else [v]

/-- `stuff(s)` (R120): the octets escaped one by one, in order. -/
def stuff (s : List Byte) : List Byte := s.flatMap escapeOctet

/-- The unescape step (R123): the flag after the octet, and the decoded octet if there is one. The order of the two
tests matters: an octet after a marker is XORed whatever it is. -/
def unescapeStep (pending : Bool) (x : Byte) : Bool × Option Byte :=
  if pending = true then (false, some (x ^^^ Config.escXor))
  else if x = Config.escape then (true, none)
  else (false, some x)

/-- R123 run over a raw sequence from a given flag: the octets emitted, and the flag at the end. -/
def unstuffFrom (pending : Bool) : List Byte → List Byte × Bool
  | [] => ([], pending)
  | x :: rest =>
    let step := unescapeStep pending x
    let tail := unstuffFrom step.1 rest
    (step.2.toList ++ tail.1, tail.2)

/-- `unstuff(r)` (R124): the decoded octets, and whether an escape marker is left unpaired. -/
def unstuff (r : List Byte) : List Byte × Bool := unstuffFrom false r

end Sys2Proof.Machine
end

