-- ==== Sys2Proof/Machine/FrameCodec.lean ====
section
/-! DEFINITION. The frame encoder and the frame decoder as pure functions (spec/42_frame_codec.md R140, R146, R147),
used by `ENCODE`, `DECODE`, the Receiver and the Sender. Their FCS is a private accumulator (spec/10_state.md
R23, R37). -/

namespace Sys2Proof.Machine

/-- The message the FCS is computed over: address, control, payload, before escaping (R140, R103). -/
def frameMessage (frame : Frame) (payload : List Byte) : List Byte :=
  frame.address :: frame.controlByte :: payload

/-- `encode_frame(frame, payload)` (R140): the wire format of R70. -/
def encodeFrame (frame : Frame) (payload : List Byte) : List Byte :=
  let m := frameMessage frame payload
  let f := fcsOf m
  [Config.flag] ++ stuff m ++ escapeOctet (fcsLow f) ++ escapeOctet (fcsHigh f) ++ [Config.flag]

/-- The frame of the decoded octets between two flags, present when the control octet was reached (R147, R133). -/
def frameOfContent (d : List Byte) : Option Frame :=
  match d with
  | a :: c :: _ => some (frameOf a c)
  | _ => none

/-- The end of R147, and `finish` of R148: check and classify the decoded octets `d` of a frame whose end flag is at
index `e`, with the escape flag and the accumulator left at its end. -/
def classify (e : Nat) (d : List Byte) (pending : Bool) (acc : Word) : DecodeResult :=
  if frameValid d.length pending acc = true then
    { consumed := e, payloadLength := d.length - 4, frame := frameOfContent d, valid := true,
      payload := (d.drop 2).take (d.length - 4) }
  else
    { consumed := e, payloadLength := d.length - 2, frame := frameOfContent d, valid := false,
      payload := d.drop 2 }

/-- The results of policy rows 1 and 2 (R146): no frame; `c` octets consumed. -/
def noFrame (c : Nat) : DecodeResult :=
  { consumed := c, payloadLength := 0, frame := none, valid := false, payload := [] }

/-- The input from its first flag on (R146, `f0`); empty when it has none. -/
def fromFirstFlag (input : List Byte) : List Byte := input.dropWhile (fun x => x != Config.flag)

/-- The input from the first octet of content on (R146, `k`): what follows the opening run of flags. -/
def fromContent (input : List Byte) : List Byte := (fromFirstFlag input).dropWhile (fun x => x == Config.flag)

/-- The raw octets up to the next flag (R146, up to `e`); all of them when there is none. -/
def untilFlag (s : List Byte) : List Byte := s.takeWhile (fun x => x != Config.flag)

/-- `decode_frame(input)` (R146, R147). With `k` the index of the first octet of content, the end flag is at
`e = k + len(body)`. -/
def decodeFrame (input : List Byte) : DecodeResult :=
  match fromFirstFlag input with
  | [] => noFrame input.length
  | _ :: _ =>
    let content := fromContent input
    let body := untilFlag content
    if body.length = content.length then noFrame 0
    else
      let k := input.length - content.length
      let u := unstuff body
      classify (k + body.length) u.1 u.2 (fcsFold Config.fcsInit u.1)

end Sys2Proof.Machine
end

