-- ==== Sys2Proof/Machine/Operands.lean ====
section
/-! DEFINITION. The operands of the operations: the bounds of spec/30_encoding.md R85, each with the refusal an
operand outside it gets (spec/93_implementation_defined.md U3), and the predicate of `TX_REMOVE kind, key`
(spec/44_sender.md R190). -/

namespace Sys2Proof.Machine

/-- An operation whose operand must keep a bound: refused by name where it does not, before anything else. -/
def bounded (outside : Bool) (why : Refusal) (run : Host.Outcome State Fault Refusal) :
    Host.Outcome State Fault Refusal :=
  match outside with
  | true => .refused why
  | false => run

/-- A payload longer than `TX_CAP`, for `ENCODE` (R85). -/
def payloadAbove (p : Params) (payload : List Byte) : Bool := decide (p.txCap < payload.length)

/-- An input longer than `RX_CAP`, for `DECODE` (R85). -/
def inputAbove (p : Params) (input : List Byte) : Bool := decide (p.rxCap < input.length)

/-- A priority that `PRIO_W` bits do not hold (R85, D16). -/
def priorityAbove (p : Params) (priority : Nat) : Bool := decide (2 ^ p.prioW ≤ priority)

/-- An `elapsed_ms` that `TIME_W` bits do not hold; none where `TIME_W` is unbounded (R85, D17). -/
def elapsedAbove (p : Params) (elapsedMs : Nat) : Bool :=
  match p.timeW with
  | none => false
  | some w => decide (2 ^ w ≤ elapsedMs)

/-- `variant(frame) = kind` and the field named by the kind equals the key; the key's bits above the field's width
must be zero (R190). -/
def keyMatches (kind : Kind) (key : BitVec 5) (c : Control) : Bool :=
  match kind, c with
  | .information, .information _ _ ns => ns == key.extractLsb' 0 3 && key.extractLsb' 3 2 == 0
  | .supervisory, .supervisory _ _ stype => stype == key.extractLsb' 0 2 && key.extractLsb' 2 3 == 0
  | .unnumbered, .unnumbered _ utype => utype == key
  | _, _ => false

/-- `match(item)` of R190: transmitted at least once, and of the kind and key. -/
def itemMatches (kind : Kind) (key : BitVec 5) (it : Item) : Bool :=
  decide (1 ≤ it.attempts) && keyMatches kind key it.frame.control

end Sys2Proof.Machine
end

