-- ==== Sys2Proof/Machine/Codec.lean ====
section
/-! DEFINITION. The codec operations `ESC_BYTE`, `ENCODE`, `DECODE` (spec/41_stuffing.md R121, spec/42_frame_codec.md
R140, R145). They change no state. -/

namespace Sys2Proof.Machine

/-- `ESC_BYTE v` (R121). -/
def execEscByte (v : Byte) (s : State) : Host.Outcome State Fault Refusal :=
  complete (.octets (escapeOctet v)) s

/-- `ENCODE frame, payload` (R140), for a payload of at most `TX_CAP` bytes (R85). -/
def execEncode (frame : Frame) (payload : List Byte) (s : State) : Host.Outcome State Fault Refusal :=
  bounded (payloadAbove s.params payload) .payloadAboveTxCap
    (complete (.octets (encodeFrame frame payload)) s)

/-- `DECODE input` (R145), for an input of at most `RX_CAP` bytes (R85). -/
def execDecode (input : List Byte) (s : State) : Host.Outcome State Fault Refusal :=
  bounded (inputAbove s.params input) .inputAboveRxCap
    (complete (.decoded (decodeFrame input)) s)

end Sys2Proof.Machine
end

