-- ==== Sys2Proof/Machine/Fcs.lean ====
section
/-! DEFINITION. The FCS register operations (spec/40_fcs.md R104 to R108). They touch `FCS_ACC` and nothing else. -/

namespace Sys2Proof.Machine

/-- `FCS_INIT` (R104): `FCS_ACC <- 0xFFFF`. -/
def execFcsInit (s : State) : Host.Outcome State Fault Refusal :=
  complete .done { s with fcsAcc := Config.fcsInit }

/-- `FCS_UPDATE b` (R105): `FCS_ACC <- fcs_update(FCS_ACC, b)`. -/
def execFcsUpdate (b : Byte) (s : State) : Host.Outcome State Fault Refusal :=
  complete .done { s with fcsAcc := fcsUpdate s.fcsAcc b }

/-- `FCS_READ` (R106): the raw accumulator, not complemented. -/
def execFcsRead (s : State) : Host.Outcome State Fault Refusal :=
  complete (.accumulator s.fcsAcc) s

/-- `FCS_FINAL` (R107): the complemented accumulator, low byte and high byte; `FCS_ACC` keeps its value. -/
def execFcsFinal (s : State) : Host.Outcome State Fault Refusal :=
  let f := s.fcsAcc ^^^ Config.fcsXorOut
  complete (.fcsBytes (fcsLow f) (fcsHigh f)) s

/-- `FCS_CHECK` (R108): `good = (FCS_ACC = 0xF0B8)`. -/
def execFcsCheck (s : State) : Host.Outcome State Fault Refusal :=
  complete (.good (residueGood s.fcsAcc)) s

end Sys2Proof.Machine
end

