-- ==== Sys2Proof/Machine/Receiver.lean ====
section
/-! DEFINITION. The Receiver (spec/43_receiver.md R161 to R164). -/

namespace Sys2Proof.Machine

/-- `RX_WRITE bytes` (R161): all of the bytes at the tail, or a capacity error and no change (R251). -/
def execRxWrite (bytes : List Byte) (s : State) : Host.Outcome State Fault Refusal :=
  match appendBytes s.rxBuf s.params.rxCap bytes with
  | none => raise .rxCapacity s
  | some m => complete .done { s with rxBuf := m }

/-- One pass of the loop of R162 over the buffer: the decoder's results, and the buffer compacted by the octets it
consumed. -/
def readPass (m : Memory) : DecodeResult × Memory :=
  let r := decodeFrame m.bytes
  (r, if 0 < r.consumed then consumeFront m r.consumed else m)

/-- The loop of R162: the frame that was produced, if one was, and the buffer that is left. Every pass that goes round
again shortens the buffer (R165), so a fuel of one more than the held length never runs out. -/
def readLoop : Nat → Memory → Option DecodeResult × Memory
  | 0, m => (none, m)
  | fuel + 1, m =>
    let pass := readPass m
    match pass.1.frame with
    | some _ => (some pass.1, pass.2)
    | none => if pass.1.consumed = 0 then (none, pass.2) else readLoop fuel pass.2

/-- `RX_READ_FRAME` (R162): at most one frame; its payload in `RX_PAY`, which is unspecified when no frame is
returned (R35, log 4). -/
def execRxReadFrame (s : State) : Host.Outcome State Fault Refusal :=
  match readLoop (s.rxLen + 1) s.rxBuf with
  | (some r, m) =>
    complete (.frameRead r.payloadLength r.frame r.valid) { s with rxBuf := m, rxPay := Memory.ofBytes r.payload }
  | (none, m) =>
    complete (.frameRead 0 none false) { s with rxBuf := m, rxPay := Memory.unspecified }

/-- `RX_RESET` (R163): `RX_LEN <- 0`; the bytes of `RX_BUF` and `RX_PAY` are unspecified afterwards (R62, log 4). -/
def execRxReset (s : State) : Host.Outcome State Fault Refusal :=
  complete .done { s with rxBuf := Memory.unspecified, rxPay := Memory.unspecified }

/-- `RX_STATUS` (R164): `RX_LEN`. -/
def execRxStatus (s : State) : Host.Outcome State Fault Refusal :=
  complete (.rxLength s.rxLen) s

end Sys2Proof.Machine
end

