-- ==== Sys2Proof/Machine/Queue.lean ====
section
/-! DEFINITION. The pending-frame queue (spec/44_sender.md R181, R182, R190, R191). -/

namespace Sys2Proof.Machine

/-- A new item (R181), its payload appended at `off`. -/
def Item.fresh (off : Nat) (frame : Frame) (payload : List Byte) (priority : Nat) (retryable : Bool) : Item :=
  { off := off, len := payload.length, frame := frame, prio := priority, retryable := retryable,
    ageMs := 0, attempts := 0 }

/-- Insertion in service order (R182): after every item of greater or equal priority, before every smaller. -/
def insertItem (q : List Item) (it : Item) : List Item :=
  q.takeWhile (fun t => decide (it.prio ≤ t.prio)) ++ it :: q.dropWhile (fun t => decide (it.prio ≤ t.prio))

/-- The offset correction of R191 for a remaining item `t` when `r` is removed. -/
def Item.afterRemoval (r t : Item) : Item :=
  if 0 < r.len ∧ r.off < t.off then { t with off := t.off - r.len } else t

/-- `remove_item(j)` (R191): the payload is cut out of `TX_BUF`, the item leaves the queue, the others keep their order
and have their offsets corrected. -/
def removeItem (j : Nat) (s : State) : State :=
  match s.txq[j]? with
  | none => s
  | some r =>
    { s with txBuf := cut s.txBuf r.off r.len, txq := (s.txq.eraseIdx j).map (Item.afterRemoval r) }

/-- The first item in service order that matches (R190). -/
def firstMatch (kind : Kind) (key : BitVec 5) (q : List Item) : Option Nat := q.findIdx? (itemMatches kind key)

end Sys2Proof.Machine
end

