-- ==== Sys2Proof/Machine/Sender.lean ====
section
/-! DEFINITION. The Sender (spec/44_sender.md R184 to R193). -/

namespace Sys2Proof.Machine

/-- `TX_WRITE_FRAME frame, payload, priority, retryable` (R184): both capacity tests before any write (R257), then the
payload is appended and the item inserted in service order. -/
def execTxWriteFrame (frame : Frame) (payload : List Byte) (priority : Nat) (retryable : Bool) (s : State) :
    Host.Outcome State Fault Refusal :=
  bounded (priorityAbove s.params priority) .priorityAboveWidth
    (match appendBytes s.txBuf s.params.txCap payload, queueFull s.params s.txq with
     | none, _ => raise .txCapacity s
     | some _, true => raise .txCapacity s
     | some m, false =>
       complete .done
         { s with txBuf := m, txq := insertItem s.txq (Item.fresh s.txLen frame payload priority retryable) })

/-- The encoded frame of an item: its payload is read from `TX_BUF` at the moment of encoding (R189, R60). -/
def itemBytes (s : State) (h : Item) : List Byte := encodeFrame h.frame (memRead s.txBuf h.off h.len)

/-- Step 6 of R185 for the head `h`: the frame in `TX_OUT`, and a non-retryable item removed after its one
transmission (R189). -/
def transmitHead (h : Item) (s : State) : Host.Outcome State Fault Refusal :=
  let out := itemBytes s h
  let sent := { s with txOut := Memory.ofBytes out }
  complete (.sent out.length) (if h.retryable = true then sent else removeItem 0 sent)

/-- Steps 5 and 6 of R185 for the head `h`, whose age and attempts have been brought up to date: exhausted, it is
removed and nothing is sent (R188); otherwise it is transmitted. -/
def serveHead (h : Item) (rest : List Item) (s : State) : Host.Outcome State Fault Refusal :=
  let s1 := { s with txq := h :: rest }
  if attemptsExhausted s.params h.attempts = true then
    raise .txTimeout (removeItem 0 { s1 with txOut := Memory.unspecified })
  else transmitHead h s1

/-- `TX_READ elapsed_ms` (R185): the six steps in their order. `TX_OUT` is unspecified when nothing is transmitted (R34,
log 4). -/
def execTxRead (elapsedMs : Nat) (s : State) : Host.Outcome State Fault Refusal :=
  bounded (elapsedAbove s.params elapsedMs) .elapsedAboveWidth
    (match s.txq with
     | [] => complete (.sent 0) { s with txOut := Memory.unspecified }
     | h :: rest =>
       if h.attempts = 0 then serveHead { h with attempts := 1 } rest s
       else if ageDue s.params (h.ageMs + elapsedMs) = true then
         serveHead { h with ageMs := 0, attempts := h.attempts + 1 } rest s
       else
         complete (.sent 0)
           { s with txq := { h with ageMs := h.ageMs + elapsedMs } :: rest, txOut := Memory.unspecified })

/-- `TX_REMOVE kind, key` (R190): the first match in service order leaves the queue; finding nothing is no error. -/
def execTxRemove (kind : Kind) (key : BitVec 5) (s : State) : Host.Outcome State Fault Refusal :=
  match firstMatch kind key s.txq with
  | some j => complete (.removed true) (removeItem j s)
  | none => complete (.removed false) s

/-- `TX_RESET` (R192): the queue empty, `TX_LEN <- 0`; the bytes of `TX_BUF` and `TX_OUT` are unspecified afterwards
(log 4). -/
def execTxReset (s : State) : Host.Outcome State Fault Refusal :=
  complete .done { s with txBuf := Memory.unspecified, txq := [], txOut := Memory.unspecified }

/-- `TX_STATUS` (R193): `TX_LEN` and the number of items. -/
def execTxStatus (s : State) : Host.Outcome State Fault Refusal :=
  complete (.txLengths s.txLen s.txq.length) s

end Sys2Proof.Machine
end

