-- ==== Sys2Proof/Machine/Scan.lean ====
section
/-! DEFINITION. What a raw octet means by its place in a scan (spec/30_encoding.md R88), and the byte-serial parser
(spec/42_frame_codec.md R148), the same function as `decodeFrame`, one raw octet at a time. Both are pure: a scan and its
registers exist only inside one operation (spec/10_state.md R37), so none of them is in `State`. -/

namespace Sys2Proof.Machine

/-! ### The table of R88 -/

/-- The table of R88: what one raw octet means at a place. After an end flag the scan stands in the opening run of the
next frame (log 10). -/
def readOctet (p : Place) (x : Byte) : Reading :=
  match p with
  | .hunt =>
    if x = Config.flag then { after := .opening, decoded := [], frameEnds := [] }
    else { after := .hunt, decoded := [], frameEnds := [] }
  | .opening =>
    if x = Config.flag then { after := .opening, decoded := [], frameEnds := [] }
    else if x = Config.escape then { after := .pending, decoded := [], frameEnds := [] }
    else { after := .content, decoded := [x], frameEnds := [] }
  | .content =>
    if x = Config.flag then { after := .opening, decoded := [], frameEnds := [false] }
    else if x = Config.escape then { after := .pending, decoded := [], frameEnds := [] }
    else { after := .content, decoded := [x], frameEnds := [] }
  | .pending =>
    if x = Config.flag then { after := .opening, decoded := [], frameEnds := [true] }
    else { after := .content, decoded := [x ^^^ Config.escXor], frameEnds := [] }

/-- Raw octets read one after another from a place. -/
def readOctets (p : Place) : List Byte → Reading
  | [] => { after := p, decoded := [], frameEnds := [] }
  | x :: rest =>
    let r := readOctet p x
    let tail := readOctets r.after rest
    { after := tail.after, decoded := r.decoded ++ tail.decoded, frameEnds := r.frameEnds ++ tail.frameEnds }

/-- What raw octets mean at each of the four places. -/
def readings (xs : List Byte) : Readings where
  hunt := readOctets .hunt xs
  opening := readOctets .opening xs
  content := readOctets .content xs
  pending := readOctets .pending xs

/-! ### The byte-serial parser -/

/-- The state of the byte-serial parser: `HUNT`, `OPEN`, `CONTENT` (R148). -/
inductive Phase where
  | hunt
  | opening
  | content
deriving DecidableEq, Repr

/-- The parser inside one scan (R148): its state, the index of the next octet, and its registers `pending` and `acc`; the
decoded octets, of which `n` is the count, `a` and `c` the first two and `p` the rest (log 9). -/
structure Scan where
  phase : Phase
  index : Nat
  pending : Bool
  acc : Word
  decoded : List Byte
deriving DecidableEq, Repr

/-- The start of a scan (R148: `state <- HUNT`, `i = 0`). The other registers are set when content begins; the values they
have here are never read (log 9). -/
def Scan.start : Scan where
  phase := .hunt
  index := 0
  pending := false
  acc := Config.fcsInit
  decoded := []

/-- `data(y)` (R148): a decoded octet is stored and folded into the private accumulator. -/
def Scan.data (sc : Scan) (y : Byte) : Scan :=
  { sc with acc := fcsUpdate sc.acc y, decoded := sc.decoded ++ [y] }

/-- `take(x)` (R148): one raw octet of content through the unescape step of R123. -/
def Scan.take (sc : Scan) (x : Byte) : Scan :=
  match unescapeStep sc.pending x with
  | (pending, some y) => ({ sc with pending := pending }).data y
  | (pending, none) => { sc with pending := pending }

/-- The parser at the first octet of content (R148, state `OPEN`). -/
def Scan.beginContent (sc : Scan) : Scan :=
  { sc with phase := .content, pending := false, acc := Config.fcsInit, decoded := [] }

/-- One octet further in the input. -/
def Scan.advance (sc : Scan) : Scan := { sc with index := sc.index + 1 }

/-- The parser after a frame has ended: the end flag is not consumed and opens the next scan (R147 (c), R152), which has
thus read its first octet, a flag (log 10). -/
def Scan.reopened : Scan := { Scan.start with phase := .opening, index := 1 }

/-- One raw octet (R148): the parser after it, and the result if it ended a frame. -/
def Scan.octet (sc : Scan) (x : Byte) : Scan × Option DecodeResult :=
  match sc.phase with
  | .hunt => if x = Config.flag then ({ sc.advance with phase := .opening }, none) else (sc.advance, none)
  | .opening => if x = Config.flag then (sc.advance, none) else ((sc.beginContent.take x).advance, none)
  | .content =>
    if x = Config.flag then (Scan.reopened, some (classify sc.index sc.decoded sc.pending sc.acc))
    else ((sc.take x).advance, none)

/-- Raw octets one after another: the parser after them, and the results of the frames that ended on the way. -/
def Scan.octets (sc : Scan) : List Byte → Scan × List DecodeResult
  | [] => (sc, [])
  | x :: rest =>
    let o := sc.octet x
    let tail := o.1.octets rest
    (tail.1, o.2.toList ++ tail.2)

/-- The loop of R148 from a given parser: the first result, or the result at the end of the input. -/
def Scan.run (sc : Scan) : List Byte → DecodeResult
  | [] =>
    match sc.phase with
    | .hunt => noFrame sc.index
    | .opening => noFrame 0
    | .content => noFrame 0
  | x :: rest =>
    match sc.octet x with
    | (_, some r) => r
    | (sc', none) => sc'.run rest

/-- `decode_frame` as the byte-serial machine of R148. -/
def decodeFrameSerial (input : List Byte) : DecodeResult := Scan.start.run input

/-- The place in the table of R88 at which a parser stands. -/
def Scan.place (sc : Scan) : Place :=
  match sc.phase, sc.pending with
  | .hunt, _ => .hunt
  | .opening, _ => .opening
  | .content, false => .content
  | .content, true => .pending

/-- The frame so far: present in content once the control octet has been reached (R148, R133). -/
def Scan.frame (sc : Scan) : Option Frame :=
  match sc.phase with
  | .hunt => none
  | .opening => none
  | .content => frameOfContent sc.decoded

end Sys2Proof.Machine
end

