-- ==== Sys2Proof/Machine/Wire.lean ====
section
/-! DEFINITION. The wire rows of the opcode table (spec/30_encoding.md R89): units of the raw octet stream. What a raw octet
means depends only on where in the scan it stands (R88), and a scan is no state of the block (spec/10_state.md R37). So a
wire row answers with what its octets mean at each place of a scan, and writes nothing else (log 8). A control byte is
on the wire as its octet escaped (R70); its variant and fields are those of R73 to R79. -/

namespace Sys2Proof.Machine

/-- The raw octets of a control byte: `escaped(control:1B)` (R70). -/
def controlOctets (c : Control) : List Byte := escapeOctet (packControl c)

/-- Raw octets: the host receives what they mean at each place of a scan (R88). -/
def takeRawOctets (xs : List Byte) (s : State) : Host.Outcome State Fault Refusal :=
  complete (.read (readings xs) none) s

/-- A control byte: the host receives its variant and fields (R131), and what its octets mean at each place (R88). -/
def readControl (c : Control) (s : State) : Host.Outcome State Fault Refusal :=
  complete (.read (readings (controlOctets c)) (some c)) s

/-- `CTRL_INFORMATION` (R74). -/
def execCtrlInformation (nr : BitVec 3) (pf : BitVec 1) (ns : BitVec 3) (s : State) :
    Host.Outcome State Fault Refusal := readControl (.information nr pf ns) s

/-- `CTRL_SUPERVISORY` (R74). -/
def execCtrlSupervisory (nr : BitVec 3) (pf : BitVec 1) (stype : BitVec 2) (s : State) :
    Host.Outcome State Fault Refusal := readControl (.supervisory nr pf stype) s

/-- `CTRL_UNNUMBERED` (R74, R75). -/
def execCtrlUnnumbered (pf : BitVec 1) (utype : BitVec 5) (s : State) :
    Host.Outcome State Fault Refusal := readControl (.unnumbered pf utype) s

/-- `CTRL_S_RECEIVE_READY` (R78): Supervisory type 0. The block treats the four types alike. -/
def execCtrlReceiveReady (nr : BitVec 3) (pf : BitVec 1) (s : State) :
    Host.Outcome State Fault Refusal := readControl (.supervisory nr pf Config.receiveReady) s

/-- `CTRL_S_REJECT` (R78): Supervisory type 1. -/
def execCtrlReject (nr : BitVec 3) (pf : BitVec 1) (s : State) :
    Host.Outcome State Fault Refusal := readControl (.supervisory nr pf Config.reject) s

/-- `CTRL_S_RECEIVE_NOT_READY` (R78): Supervisory type 2. -/
def execCtrlReceiveNotReady (nr : BitVec 3) (pf : BitVec 1) (s : State) :
    Host.Outcome State Fault Refusal := readControl (.supervisory nr pf Config.receiveNotReady) s

/-- `CTRL_S_SELECTIVE_REJECT` (R78): Supervisory type 3. -/
def execCtrlSelectiveReject (nr : BitVec 3) (pf : BitVec 1) (s : State) :
    Host.Outcome State Fault Refusal := readControl (.supervisory nr pf Config.selectiveReject) s

/-- `CTRL_U_TYPE8_MODE_SET` (R79): Unnumbered type 8. The block treats the 32 codes alike. -/
def execCtrlModeSet (pf : BitVec 1) (s : State) :
    Host.Outcome State Fault Refusal := readControl (.unnumbered pf Config.modeSet) s

/-- `CTRL_U_TYPE12_ACKNOWLEDGE` (R79): Unnumbered type 12. -/
def execCtrlAcknowledge (pf : BitVec 1) (s : State) :
    Host.Outcome State Fault Refusal := readControl (.unnumbered pf Config.acknowledge) s

/-- `FLAG` (R71, R88): opens, stays in the opening run, or ends a frame. -/
def execFlag (s : State) : Host.Outcome State Fault Refusal := takeRawOctets [Config.flag] s

/-- `ESCAPE` (R71, R88): sets the pending flag; after another marker, the decoded octet 0x5D. -/
def execEscape (s : State) : Host.Outcome State Fault Refusal := takeRawOctets [Config.escape] s

/-- `ESC_FLAG` (R72): 7D 5E, the decoded octet 0x7E. -/
def execEscFlag (s : State) : Host.Outcome State Fault Refusal := takeRawOctets [Config.escape, 0x5E] s

/-- `ESC_ESCAPE` (R72): 7D 5D, the decoded octet 0x7D. -/
def execEscEscape (s : State) : Host.Outcome State Fault Refusal := takeRawOctets [Config.escape, 0x5D] s

end Sys2Proof.Machine
end

