-- ==== Sys2Proof/Machine/Dispatch.lean ====
section
/-! DEFINITION. The meaning of every instruction: one arm per constructor of Instr. -/

namespace Sys2Proof.Machine

def exec (i : Instr) (s : State) : Host.Outcome State Fault Refusal :=
  match i with
  -- FCS engine
  | .fcsInit => Sys2Proof.Machine.execFcsInit s
  | .fcsUpdate b => Sys2Proof.Machine.execFcsUpdate b s
  | .fcsRead => Sys2Proof.Machine.execFcsRead s
  | .fcsFinal => Sys2Proof.Machine.execFcsFinal s
  | .fcsCheck => Sys2Proof.Machine.execFcsCheck s
  -- codec
  | .escByte v => Sys2Proof.Machine.execEscByte v s
  | .encode frame payload => Sys2Proof.Machine.execEncode frame payload s
  | .decode input => Sys2Proof.Machine.execDecode input s
  -- Receiver
  | .rxWrite bytes => Sys2Proof.Machine.execRxWrite bytes s
  | .rxReadFrame => Sys2Proof.Machine.execRxReadFrame s
  | .rxReset => Sys2Proof.Machine.execRxReset s
  | .rxStatus => Sys2Proof.Machine.execRxStatus s
  -- Sender
  | .txWriteFrame frame payload priority retryable => Sys2Proof.Machine.execTxWriteFrame frame payload priority retryable s
  | .txRead elapsedMs => Sys2Proof.Machine.execTxRead elapsedMs s
  | .txRemove kind key => Sys2Proof.Machine.execTxRemove kind key s
  | .txReset => Sys2Proof.Machine.execTxReset s
  | .txStatus => Sys2Proof.Machine.execTxStatus s
  -- wire units
  | .ctrlInformation nr pf ns => Sys2Proof.Machine.execCtrlInformation nr pf ns s
  | .ctrlSupervisory nr pf stype => Sys2Proof.Machine.execCtrlSupervisory nr pf stype s
  | .ctrlUnnumbered pf utype => Sys2Proof.Machine.execCtrlUnnumbered pf utype s
  | .ctrlReceiveReady nr pf => Sys2Proof.Machine.execCtrlReceiveReady nr pf s
  | .ctrlReject nr pf => Sys2Proof.Machine.execCtrlReject nr pf s
  | .ctrlReceiveNotReady nr pf => Sys2Proof.Machine.execCtrlReceiveNotReady nr pf s
  | .ctrlSelectiveReject nr pf => Sys2Proof.Machine.execCtrlSelectiveReject nr pf s
  | .ctrlModeSet pf => Sys2Proof.Machine.execCtrlModeSet pf s
  | .ctrlAcknowledge pf => Sys2Proof.Machine.execCtrlAcknowledge pf s
  | .flag => Sys2Proof.Machine.execFlag s
  | .escape => Sys2Proof.Machine.execEscape s
  | .escFlag => Sys2Proof.Machine.execEscFlag s
  | .escEscape => Sys2Proof.Machine.execEscEscape s

end Sys2Proof.Machine
end

