-- ==== Sys2Proof/Machine/Step.lean ====
section
/-! DEFINITION. One step of the machine: the block takes what the host has issued next and runs it to completion
(spec/00_scope.md R9). There is no program counter and nothing is fetched from memory (spec/10_state.md R21). -/

namespace Sys2Proof.Machine

/-- Running what the decoder gave: an instruction by its meaning, raw octets without a row by what they mean (R71,
the last column of R88). -/
def runDecoded (d : Decoded) (s : State) : Host.Outcome State Fault Refusal :=
  match d with
  | .instr i => exec i s
  | .raw xs => takeRawOctets xs s

/-- One step. An instance whose parameters break their constraints is refused (U5, log 13). While the host has issued
nothing the block does nothing (R282). A command that is no instruction is refused, as R84 and R85 say (U3, U4). -/
def step (s : State) : Host.Outcome State Fault Refusal :=
  match s.params.legal with
  | false => .refused .illegalInstance
  | true =>
    match fetch s with
    | none => .next s
    | some (issue, s') =>
      match decodeIssue issue with
      | .ok d => runDecoded d s'
      | .error reason => .refused (.undecodable reason)

/-- The state in which the host issues next the word of the opcode table whose bits are `w` (log 6, log 7). A width no
row of the table has is no word of it. -/
def State.withFetchWord (s : State) (nbits w : Nat) : State :=
  match tableIssue nbits w with
  | none => s
  | some issue => s.issue issue

end Sys2Proof.Machine
end

