-- ==== Sys2Proof/Machine/LinkHost.lean ====
section
/-! DEFINITION. The host's link protocol (spec/47_host_link_protocol.md R220 to R241), transcribed beside the block: it is
outside the block (spec/00_scope.md R5 (a)), none of it is in `State`, and no definition of the block uses it. What
the source leaves to the host (spec/91_not_in_source.md N4, N5, N6, N12, N13) is an argument (log 19). -/

namespace Sys2Proof.Machine

/-- `role` (R221, R222). -/
inductive Role where
  | master
  | slave
deriving DecidableEq, Repr

/-- The protocol session state (R221). `configuredAddress` is the address a slave answers to; the source does not say
whether it is `peer_address` or another (N13), so it is a field of its own (log 19). -/
structure Session where
  sequenceNumber : BitVec 3
  initialized : Bool
  role : Role
  peerAddress : Byte
  configuredAddress : Byte
  mode : Nat
deriving DecidableEq, Repr

/-- What the source leaves to the host (N4, N6, N12, N13; log 19): the modes it knows, the expected number of a session at
creation, the `pf` bits of its Unnumbered frames, the code of the disconnected-mode response, the priority of an
acknowledge, the address its responses carry. -/
structure HostChoices where
  knownModes : List Nat
  initialSequence : BitVec 3
  modeSetPf : BitVec 1
  acknowledgePf : BitVec 1
  acknowledgePriority : Nat
  disconnectedModePf : BitVec 1
  disconnectedModeType : BitVec 5
  responseAddress : Byte
deriving DecidableEq, Repr

/-- What the host does about one event: its session afterwards, the operations it issues, the bytes it delivers to
the application. -/
structure Reaction where
  session : Session
  issued : List Instr
  delivered : List Byte
deriving DecidableEq, Repr

/-- No reaction. -/
def Session.ignore (ss : Session) : Reaction := { session := ss, issued := [], delivered := [] }

/-- A session is created disconnected (R221); an unknown mode is rejected at once (R240, R255). Its expected number at
creation, with which a master also connects, is in 0 to 7 (R221) and otherwise left to the host (N12): the model takes
it from `HostChoices` (DESIGN CHOICE, log 19). -/
def establish (ch : HostChoices) (role : Role) (peer configured : Byte) (mode : Nat) : Option Session :=
  if mode ∈ ch.knownModes then
    some { sequenceNumber := ch.initialSequence, initialized := false, role := role, peerAddress := peer,
           configuredAddress := configured, mode := mode }
  else none

/-- The explicit reset of a session, and what the receipt of a fresh mode-setting frame does to it first: disconnected
(R221). Its expected number is then 0, as R226 and N12 take it for the slave's reset; that it is so for every reset is the
model's (DEDUCED, log 19). -/
def Session.disconnect (ss : Session) : Session := { ss with initialized := false, sequenceNumber := 0 }

/-- On creation a master enqueues the retryable mode-setting frame at priority 3 (R223); a slave is silent (R224). -/
def Session.onCreation (ch : HostChoices) (ss : Session) : List Instr :=
  match ss.role with
  | .master =>
    [.txWriteFrame { address := ss.peerAddress, control := .unnumbered ch.modeSetPf Config.modeSet } []
      Config.prioHandshake true]
  | .slave => []

/-- Whether a frame concerns this node (R234). -/
def Session.addressed (ss : Session) (f : Frame) : Bool :=
  match ss.role with
  | .master => f.address == ss.peerAddress
  | .slave => f.address == ss.configuredAddress

/-- A response frame: empty payload, not retryable (R236 (a)). -/
def respond (ch : HostChoices) (c : Control) (priority : Nat) : Instr :=
  .txWriteFrame { address := ch.responseAddress, control := c } [] priority false

/-- An Information frame while connected (R232): accepted when valid and in sequence, else rejected. -/
def Session.onInformation (ch : HostChoices) (ss : Session) (ns : BitVec 3) (valid : Bool) (payload : List Byte) :
    Reaction :=
  if valid = true ∧ ns = ss.sequenceNumber then
    { session := { ss with sequenceNumber := ss.sequenceNumber + 1 },
      issued := [respond ch (.supervisory (ss.sequenceNumber + 1) 0 Config.receiveReady) Config.prioResponse],
      delivered := payload }
  else
    { session := ss,
      issued := [respond ch (.supervisory ss.sequenceNumber 1 Config.selectiveReject) Config.prioResponse],
      delivered := [] }

/-- The key of the Information frame a Receive-Ready acknowledges (R230, R233): `nr - 1 mod 8`. -/
def acknowledgedKey (nr : BitVec 3) : BitVec 5 := (nr - 1).setWidth 5

/-- A frame while connected: an Information frame as above; a valid Receive-Ready removes the frame it acknowledges
(R230); the other Supervisory types provoke nothing (R231). To a valid Unnumbered frame that is none of the handshake
(another code, or an acknowledge for a slave), and to an invalid Supervisory or Unnumbered frame, no rule gives a
reaction: the model ignores them (DESIGN CHOICE, log 19). -/
def Session.onConnected (ch : HostChoices) (ss : Session) (c : Control) (valid : Bool) (payload : List Byte) :
    Reaction :=
  match c with
  | .information _ _ ns => ss.onInformation ch ns valid payload
  | .supervisory nr _ stype =>
    if valid = true ∧ stype = Config.receiveReady then
      { session := ss, issued := [.txRemove .information (acknowledgedKey nr)], delivered := [] }
    else ss.ignore
  | .unnumbered _ _ => ss.ignore

/-- Whether a control field is the Unnumbered one of a type (R79). -/
def isUnnumbered (utype : BitVec 5) : Control → Bool
  | .information _ _ _ => false
  | .supervisory _ _ _ => false
  | .unnumbered _ u => u == utype

/-- A frame for a master. A valid acknowledge connects it, or leaves it connected, and removes the pending mode-setting
frame (R225); connecting does not touch its expected number, of which R225 says nothing (log 19). A valid mode-setting
frame disconnects it (R221), and no operation is issued for it (log 19). Any other frame has an effect only while it is
connected: no rule gives a disconnected master a reaction to one (DESIGN CHOICE, log 19). -/
def Session.onMasterFrame (ch : HostChoices) (ss : Session) (c : Control) (valid : Bool) (payload : List Byte) :
    Reaction :=
  if valid = true ∧ isUnnumbered Config.acknowledge c = true then
    { session := { ss with initialized := true }, issued := [.txRemove .unnumbered Config.modeSet], delivered := [] }
  else if valid = true ∧ isUnnumbered Config.modeSet c = true then ss.disconnect.ignore
  else
    match ss.initialized with
    | true => ss.onConnected ch c valid payload
    | false => ss.ignore

/-- A frame for a slave: a valid mode-setting frame resets the session and sets it up anew, connected or not (R221,
R226); any other valid frame while disconnected provokes the disconnected-mode response (R227). To an
invalid frame while disconnected no rule gives a reaction: the model ignores it (DESIGN CHOICE, log 19). -/
def Session.onSlaveFrame (ch : HostChoices) (ss : Session) (c : Control) (valid : Bool) (payload : List Byte) :
    Reaction :=
  if valid = true ∧ isUnnumbered Config.modeSet c = true then
    { session := { ss.disconnect with initialized := true },
      issued := [.txReset, respond ch (.unnumbered ch.acknowledgePf Config.acknowledge) ch.acknowledgePriority],
      delivered := [] }
  else
    match ss.initialized with
    | true => ss.onConnected ch c valid payload
    | false =>
      if valid = true then
        { session := ss,
          issued := [respond ch (.unnumbered ch.disconnectedModePf ch.disconnectedModeType) Config.prioResponse],
          delivered := [] }
      else ss.ignore

/-- The reaction to a frame `RX_READ_FRAME` has returned (R220, R225 to R234). -/
def Session.onFrame (ch : HostChoices) (ss : Session) (f : Frame) (valid : Bool) (payload : List Byte) : Reaction :=
  match ss.addressed f with
  | false => ss.ignore
  | true =>
    match ss.role with
    | .master => ss.onMasterFrame ch f.control valid payload
    | .slave => ss.onSlaveFrame ch f.control valid payload

/-- The reaction to the state after an operation: the host acts on a returned frame and takes its payload from
`RX_PAY` (R35, R232). -/
def Session.react (ch : HostChoices) (ss : Session) (s : State) : Reaction :=
  match s.response with
  | .frameRead p (some f) valid => ss.onFrame ch f valid (memRead s.rxPay 0 p)
  | _ => ss.ignore

/-- An application write (R235): `ns` is the host's choice (N5). -/
def applicationWrite (address : Byte) (ack : BitVec 3) (pf : BitVec 1) (ns : BitVec 3) (payload : List Byte) : Instr :=
  .txWriteFrame { address := address, control := .information ack pf ns } payload Config.prioApplication true

end Sys2Proof.Machine
end

