-- ==== Sys2Proof/Safety.lean ====
section
/-! DEFINITION. What a safe run is, in the terms the statements use: the invariants of spec/10_state.md R27 and R32,
the stuck Receiver of spec/43_receiver.md R167, runs of operations (spec/70_reset_and_hazards.md R306) and the
pseudo-operations of spec/30_encoding.md R87. -/

namespace Sys2Proof

open Machine

/-! ### The invariant -/

/-- Items listed in order of enqueue lie one after another from offset `o` to offset `e` (R32 (c)). -/
def Contiguous (o : Nat) (items : List Item) (e : Nat) : Prop :=
  match items with
  | [] => o = e
  | it :: rest => it.off = o ∧ Contiguous (o + it.len) rest e

/-- R32 (c): in some order of enqueue the items partition `[0, TX_LEN)`. That order agrees with the queue among items
of equal priority, which is all the order of enqueue the queue remembers (R31, R37; log 18). -/
def Partitioned (q : List Item) (txLen : Nat) : Prop :=
  ∃ enqueued : List Item,
    enqueued.Perm q ∧
    (∀ p : Nat, enqueued.filter (fun it => it.prio == p) = q.filter (fun it => it.prio == p)) ∧
    Contiguous 0 enqueued txLen

/-- R32 (f), R31: sorted by descending priority. -/
def ServiceOrdered (q : List Item) : Prop := q.Pairwise (fun a b => b.prio ≤ a.prio)

/-- R32 (d) and (e) for one item, with R30's width of `prio` and, for an item not yet sent, R186's age 0. -/
def ItemSound (p : Params) (it : Item) : Prop :=
  it.prio < 2 ^ p.prioW ∧
  it.attempts ≤ p.writeRetries + 1 ∧
  (it.attempts = 0 → it.ageMs = 0) ∧
  (1 ≤ it.attempts → it.ageMs < p.writeTimeoutMs ∨ p.writeTimeoutMs = 0 ∧ it.ageMs = 0) ∧
  (it.retryable = false → it.attempts = 0)

/-- R32 (b). -/
def QueueWithinDepth (p : Params) (q : List Item) : Prop :=
  match p.txqDepth with
  | none => True
  | some d => q.length ≤ d

/-- The invariants of the block: R27, R32 (a) to (f), the canonical form of every buffer (R54) and the capacities of the
result buffers (R34, R35). -/
structure Inv (s : State) : Prop where
  rxWf : s.rxBuf.wf = true
  rxPayWf : s.rxPay.wf = true
  txWf : s.txBuf.wf = true
  txOutWf : s.txOut.wf = true
  rxWithin : s.rxLen ≤ s.params.rxCap
  txWithin : s.txLen ≤ s.params.txCap
  depth : QueueWithinDepth s.params s.txq
  partitioned : Partitioned s.txq s.txLen
  ordered : ServiceOrdered s.txq
  items : ∀ it ∈ s.txq, ItemSound s.params it
  payWithin : s.rxPay.length ≤ s.params.payCap
  outWithin : s.txOut.length ≤ s.params.outCap

/-! ### The stuck Receiver -/

/-- The condition of R167 and R291: the buffer is full, and the decoder waits for more data. -/
def StuckReceiver (s : State) : Prop :=
  s.rxLen = s.params.rxCap ∧ 1 ≤ s.rxLen ∧ decodeFrame s.rxBuf.bytes = noFrame 0

/-! ### Runs -/

/-- What one operation returns to the host: its result, and the byte sequence that stands in a result buffer for it (R85,
R306). -/
structure Observed where
  result : Response
  bytes : List Byte
deriving DecidableEq, Repr

/-- The byte sequence returned through a result buffer (R85): `TX_OUT[0..byte_length)` after a `TX_READ`,
`RX_PAY[0..payload_length)` after an `RX_READ_FRAME`; every other result carries its own. -/
def resultBytes (t : State) : List Byte :=
  match t.response with
  | .sent n => memRead t.txOut 0 n
  | .frameRead p _ _ => memRead t.rxPay 0 p
  | _ => []

/-- The observation of the operation that left `t`. -/
def observe (t : State) : Observed := { result := t.response, bytes := resultBytes t }

/-- A run of operations (R306): the state after the last, and the observation, the results in order with the bytes
returned; none when one was refused, after which there is no state. -/
def runOps : List Instr → State → Option (State × List Observed)
  | [], s => some (s, [])
  | i :: rest, s =>
    match exec i s with
    | .next t =>
      match runOps rest t with
      | some (u, os) => some (u, observe t :: os)
      | none => none
    | .fault _ => none
    | .refused _ => none

/-- The pseudo-operation `HW_RESET` (R87). -/
def hwReset : List Instr := [.fcsInit, .rxReset, .txReset]

/-- The pseudo-operation `FCS_FRAME b0 … bn` (R87). -/
def fcsFrame (bytes : List Byte) : List Instr := .fcsInit :: bytes.map .fcsUpdate ++ [.fcsFinal]

/-- How many results of a run are transmissions: `TX_READ` with `byte_length > 0` (R189, R194). -/
def transmissions (os : List Observed) : Nat :=
  os.countP fun o =>
    match o.result with
    | .sent n => decide (0 < n)
    | _ => false

/-! ### Scans -/

/-- In content the accumulator of a scan is the fold of what it decoded (R148). -/
def Machine.Scan.Coherent (sc : Scan) : Prop :=
  sc.phase = .content → sc.acc = fcsFold Config.fcsInit sc.decoded

/-! ### What an instruction leaves alone -/

/-- The FCS state (R40). -/
def sameFcs (s t : State) : Prop := t.fcsAcc = s.fcsAcc

/-- The Receiver's state (R160). -/
def sameReceiver (s t : State) : Prop := t.rxBuf = s.rxBuf ∧ t.rxPay = s.rxPay

/-- The Sender's state (R180). -/
def sameSender (s t : State) : Prop := t.txBuf = s.txBuf ∧ t.txq = s.txq ∧ t.txOut = s.txOut

/-- The parameters, and what the host has issued: no operation writes them. -/
def sameSurroundings (s t : State) : Prop := t.params = s.params ∧ t.host = s.host

end Sys2Proof
end

