-- ==== Sys2Proof/Certificates/Slice0/Obligations.lean ====
section
/-! DEFINITION. The statements about the block, each from the rules of spec/ its docstring names. Where the spec leaves a
result buffer unspecified, a statement says only that some buffer stands there (`∃ pay`, `∃ out`). -/

open Sys2Proof Sys2Proof.Machine

/-! ### FCS engine -/

/-- R104: `FCS_INIT` loads `0xFFFF`, whatever `FCS_ACC` held; it is idempotent and writes nothing else. -/
def Obligations.FcsInitLoadsInitialValue : Prop :=
  encode .fcsInit = .command 0x00 [] ∧
  ∀ s : State,
    exec .fcsInit s = .next { s with fcsAcc := 0xFFFF, response := .done } ∧
    ∀ t, exec .fcsInit s = .next t → exec .fcsInit t = .next t

/-- R105, R102: `FCS_UPDATE b` is one table step of `FCS_ACC` and writes nothing else; R105's corner values. -/
def Obligations.FcsUpdateStepsAccumulator : Prop :=
  (∀ b : Byte, encode (.fcsUpdate b) = .command 0x01 [.octets [b]]) ∧
  (∀ (b : Byte) (s : State),
    exec (.fcsUpdate b) s =
      .next { s with
        fcsAcc := (s.fcsAcc >>> 8) ^^^ fcsTableEntry ((s.fcsAcc ^^^ b.setWidth 16) &&& 0xFF).toNat,
        response := .done }) ∧
  fcsUpdate 0x0000 0x00 = 0x0000 ∧ fcsUpdate 0xFFFF 0x00 = 0x0F87 ∧ fcsUpdate 0xFFFF 0xFF = 0x00FF ∧
  fcsUpdate 0x0000 0xFF = 0x0F78 ∧ fcsUpdate 0xFFFF 0xAA = 0x05D7 ∧ fcsUpdate 0x05D7 0x53 = 0xC229

/-- R106, R107, R108: the three reads report the accumulator raw, complemented (low octet first), and compared with
the residue; none changes any state but the response. -/
def Obligations.FcsReadsReportAccumulator : Prop :=
  encode .fcsRead = .command 0x02 [] ∧ encode .fcsFinal = .command 0x03 [] ∧ encode .fcsCheck = .command 0x04 [] ∧
  (∀ s : State,
    exec .fcsRead s = .next { s with response := .accumulator s.fcsAcc } ∧
    exec .fcsFinal s =
      .next { s with
        response := .fcsBytes ((s.fcsAcc ^^^ 0xFFFF).extractLsb' 0 8) ((s.fcsAcc ^^^ 0xFFFF).extractLsb' 8 8) } ∧
    exec .fcsCheck s = .next { s with response := .good (decide (s.fcsAcc = 0xF0B8)) }) ∧
  fcsFold 0xFFFF [0x00, 0x00] = 0xF0B8 ∧ fcsFold 0xFFFF [0xAA, 0x53] = 0xC229 ∧
  fcsFold 0xFFFF [0xAA, 0x53, 0xD6, 0x3D] = 0xF0B8 ∧ fcsFold 0xFFFF [0xAA, 0x53, 0xD6, 0x3C] ≠ 0xF0B8

/-- R100: each of the 256 entries is the reflected construction from `0x8408`; with the table the two frames the source
gives byte for byte have the FCS octets it prints, and both leave the residue. -/
def Obligations.FcsTableIsReflectedConstruction : Prop :=
  fcsTable.length = 256 ∧
  (∀ i : Fin 256,
    fcsTableEntry i.val =
      Nat.iterate (fun v : Word => if v.getLsbD 0 = true then (v >>> 1) ^^^ 0x8408 else v >>> 1) 8
        (BitVec.ofNat 16 i.val)) ∧
  fcsLow (fcsOf [0xAA, 0x53]) = 0xD6 ∧ fcsHigh (fcsOf [0xAA, 0x53]) = 0x3D ∧
  fcsLow (fcsOf [0xAA, 0x73]) = 0xD4 ∧ fcsHigh (fcsOf [0xAA, 0x73]) = 0x1C ∧
  fcsFold 0xFFFF [0xAA, 0x53, 0xD6, 0x3D] = 0xF0B8 ∧ fcsFold 0xFFFF [0xAA, 0x73, 0xD4, 0x1C] = 0xF0B8

/-- R109 (c): one table step equals eight bit-serial steps of the accumulator XORed with the byte. -/
def Obligations.FcsUpdateIsBitSerial : Prop :=
  ∀ (acc : Word) (b : Byte),
    fcsUpdate acc b =
      Nat.iterate (fun v : Word => (v >>> 1) ^^^ (if v.getLsbD 0 = true then 0x8408 else 0)) 8
        (acc ^^^ b.setWidth 16)

/-- R109 (b): the step is linear over exclusive-or. -/
def Obligations.FcsUpdateIsLinear : Prop :=
  ∀ (a a' : Word) (b b' : Byte),
    fcsUpdate (a ^^^ a') (b ^^^ b') = fcsUpdate a b ^^^ fcsUpdate a' b'

/-- R109 (d), R103: a message followed by its FCS, low octet first, folds to the residue. -/
def Obligations.FcsResidueOfMessageWithItsFcs : Prop :=
  ∀ m : List Byte, fcsFold 0xFFFF (m ++ [fcsLow (fcsOf m), fcsHigh (fcsOf m)]) = 0xF0B8

/-- R109 (e): the step is one-to-one in the byte and in the accumulator, so two messages of equal length that differ
in exactly one byte never fold to the same accumulator. -/
def Obligations.FcsDistinguishesSingleOctetChange : Prop :=
  (∀ (acc : Word) (b b' : Byte), fcsUpdate acc b = fcsUpdate acc b' → b = b') ∧
  (∀ (acc acc' : Word) (b : Byte), fcsUpdate acc b = fcsUpdate acc' b → acc = acc') ∧
  ∀ (acc : Word) (p q : List Byte) (x y : Byte), x ≠ y → fcsFold acc (p ++ x :: q) ≠ fcsFold acc (p ++ y :: q)

/-- R87, R103 (b): the pseudo-operation `FCS_FRAME` ends with the FCS of its bytes, from whatever `FCS_ACC` held, and
leaves the folded accumulator; nothing else changes. -/
def Obligations.FcsFrameReturnsFcsOfItsBytes : Prop :=
  ∀ (bytes : List Byte) (s : State),
    let f := fcsFold 0xFFFF bytes ^^^ 0xFFFF
    let last : Response := .fcsBytes (f.extractLsb' 0 8) (f.extractLsb' 8 8)
    runOps (fcsFrame bytes) s =
      some ({ s with fcsAcc := fcsFold 0xFFFF bytes, response := last },
        List.replicate (bytes.length + 1) ⟨.done, []⟩ ++ [⟨last, []⟩])

/-! ### Byte stuffing -/

/-- R121, R120: `ESC_BYTE v` returns the escaped octet; no state but the response changes; the result holds no flag
and begins with the marker exactly when it has two octets. -/
def Obligations.EscByteReturnsEscapedOctet : Prop :=
  ∀ (v : Byte) (s : State),
    encode (.escByte v) = .command 0x08 [.octets [v]] ∧
    ∃ out : List Byte,
      exec (.escByte v) s = .next { s with response := .octets out } ∧
      out = (if v = 0x7E ∨ v = 0x7D then [0x7D, v ^^^ 0x20] else [v]) ∧
      (0x7E : Byte) ∉ out ∧ (out.head? = some 0x7D ↔ out.length = 2)

/-- R125: unstuffing undoes stuffing; a stuffed sequence holds no flag, and holds the marker only as the first octet of
a two-octet sequence; its length is the length plus the number of reserved octets; unstuffing is not one-to-one. -/
def Obligations.StuffingLaws : Prop :=
  (∀ s : List Byte, unstuff (stuff s) = (s, false)) ∧
  (∀ s : List Byte, (0x7E : Byte) ∉ stuff s) ∧
  (∀ s : List Byte, ∃ units : List (List Byte), stuff s = units.flatten ∧
    ∀ u ∈ units, u = [0x7D, 0x5E] ∨ u = [0x7D, 0x5D] ∨ ∃ x : Byte, x ≠ 0x7D ∧ u = [x]) ∧
  (∀ s : List Byte,
    (stuff s).length = s.length + s.countP (fun x => x == 0x7E || x == 0x7D) ∧
    s.length ≤ (stuff s).length ∧ (stuff s).length ≤ 2 * s.length) ∧
  unstuff [0x7D, 0x8A] = ([0xAA], false) ∧ unstuff [0xAA] = ([0xAA], false)

/-- R123, R124: the order of the two tests of the unescape step, and the bounds on what unstuffing emits. -/
def Obligations.UnstuffingEmitsWithinBounds : Prop :=
  (∀ x : Byte, unescapeStep true x = (false, some (x ^^^ 0x20))) ∧
  unescapeStep false 0x7D = (true, none) ∧
  (∀ x : Byte, x ≠ 0x7D → unescapeStep false x = (false, some x)) ∧
  ∀ r : List Byte,
    (unstuff r).1.length ≤ r.length ∧ r.length ≤ 2 * (unstuff r).1.length + (unstuff r).2.toNat

/-! ### Control byte -/

/-- R132: `unpack_control` and `pack_control` undo each other, both ways. -/
def Obligations.ControlByteMapIsBijective : Prop :=
  (∀ c : Control, unpackControl (packControl c) = c) ∧ (∀ b : Byte, packControl (unpackControl b) = b)

/-- R130, R131: packing and unpacking by the shifts and masks of the rules. -/
def Obligations.ControlByteFollowsFormulas : Prop :=
  (∀ (nr : BitVec 3) (pf : BitVec 1) (ns : BitVec 3),
    packControl (.information nr pf ns) =
      (nr.setWidth 8 <<< 5) ||| (pf.setWidth 8 <<< 4) ||| (ns.setWidth 8 <<< 1) ||| 0) ∧
  (∀ (nr : BitVec 3) (pf : BitVec 1) (stype : BitVec 2),
    packControl (.supervisory nr pf stype) =
      (nr.setWidth 8 <<< 5) ||| (pf.setWidth 8 <<< 4) ||| (stype.setWidth 8 <<< 2) ||| 0x01) ∧
  (∀ (pf : BitVec 1) (utype : BitVec 5),
    packControl (.unnumbered pf utype) =
      ((utype.setWidth 8 &&& 0x1C) <<< 3) ||| (pf.setWidth 8 <<< 4) ||| ((utype.setWidth 8 &&& 0x03) <<< 2) ||| 0x03) ∧
  ∀ c : Byte,
    (c.getLsbD 0 = false →
      unpackControl c = .information (c.extractLsb' 5 3) (c.extractLsb' 4 1) (c.extractLsb' 1 3)) ∧
    (c.getLsbD 0 = true → c.getLsbD 1 = false →
      unpackControl c = .supervisory (c.extractLsb' 5 3) (c.extractLsb' 4 1) (c.extractLsb' 2 2)) ∧
    (c.getLsbD 0 = true → c.getLsbD 1 = true →
      unpackControl c =
        .unnumbered (c.extractLsb' 4 1) ((((c >>> 3) &&& 0x1C) ||| ((c >>> 2) &&& 0x03)).setWidth 5))

/-! ### Encoder and decoder -/

/-- R140, R70: `ENCODE` returns flag, escaped address, control, payload, FCS low, FCS high, flag; the FCS is over the
values before escaping; any payload goes with any variant; no state but the response changes. -/
def Obligations.EncodeReturnsWireFormat : Prop :=
  ∀ (frame : Frame) (payload : List Byte) (s : State),
    encode (.encode frame payload) =
      .command 0x09 [.octets [frame.address, packControl frame.control], .octets payload] ∧
    (payload.length ≤ s.params.txCap →
      let m := [frame.address, packControl frame.control] ++ payload
      let f := fcsFold 0xFFFF m ^^^ 0xFFFF
      exec (.encode frame payload) s =
        .next { s with
          response := .octets ([0x7E] ++ stuff m ++ escapeOctet (f.extractLsb' 0 8) ++ escapeOctet (f.extractLsb' 8 8) ++ [0x7E]) })

/-- R141, R81: the encoded length is `6 + N + k`, `k` the reserved octets among address, control, payload and the two
FCS octets, hence at least 6 and at most `2*N + 10`. -/
def Obligations.EncodedLengthCountsReservedOctets : Prop :=
  ∀ (frame : Frame) (payload : List Byte),
    let m := frame.address :: packControl frame.control :: payload
    let k := (m ++ [fcsLow (fcsOf m), fcsHigh (fcsOf m)]).countP (fun x => x == 0x7E || x == 0x7D)
    (encodeFrame frame payload).length = 6 + payload.length + k ∧
    k ≤ payload.length + 4 ∧
    6 ≤ (encodeFrame frame payload).length ∧ (encodeFrame frame payload).length ≤ 2 * payload.length + 10

/-- R145: `DECODE input` returns the five results of `decode_frame`, never an error, and no state but the response
changes. -/
def Obligations.DecodeReportsDecodeFrame : Prop :=
  ∀ (input : List Byte) (s : State),
    encode (.decode input) = .command 0x0A [.octets input] ∧
    (input.length ≤ s.params.rxCap →
      exec (.decode input) s = .next { s with response := .decoded (decodeFrame input) })

/-- R146, R147: every input has one of four shapes, and `decode_frame` answers each as the policy table says. `g` is the
garbage before the first flag, `n` the length of the opening run of flags, `body` the raw content, `t` what follows
the end flag. -/
def Obligations.DecodeFrameFollowsPolicyTable : Prop :=
  (∀ input : List Byte,
    (0x7E : Byte) ∉ input ∨
    (∃ (g : List Byte) (n : Nat), (0x7E : Byte) ∉ g ∧ 1 ≤ n ∧ input = g ++ List.replicate n 0x7E) ∨
    (∃ (g : List Byte) (n : Nat) (body : List Byte),
      (0x7E : Byte) ∉ g ∧ 1 ≤ n ∧ body ≠ [] ∧ (0x7E : Byte) ∉ body ∧ input = g ++ List.replicate n 0x7E ++ body) ∨
    (∃ (g : List Byte) (n : Nat) (body t : List Byte),
      (0x7E : Byte) ∉ g ∧ 1 ≤ n ∧ body ≠ [] ∧ (0x7E : Byte) ∉ body ∧
      input = g ++ List.replicate n 0x7E ++ body ++ 0x7E :: t)) ∧
  (∀ input : List Byte, (0x7E : Byte) ∉ input → decodeFrame input = ⟨input.length, 0, none, false, []⟩) ∧
  (∀ (g : List Byte) (n : Nat) (body : List Byte),
    (0x7E : Byte) ∉ g → 1 ≤ n → (0x7E : Byte) ∉ body →
    decodeFrame (g ++ List.replicate n 0x7E ++ body) = ⟨0, 0, none, false, []⟩) ∧
  (∀ (g : List Byte) (n : Nat) (body t : List Byte),
    (0x7E : Byte) ∉ g → 1 ≤ n → body ≠ [] → (0x7E : Byte) ∉ body →
    let d := (unstuff body).1
    let e := g.length + n + body.length
    let frame := match d with
      | a :: c :: _ => some (frameOf a c)
      | _ => none
    let valid := 4 ≤ d.length ∧ (unstuff body).2 = false ∧ fcsFold 0xFFFF d = 0xF0B8
    (valid →
      decodeFrame (g ++ List.replicate n 0x7E ++ body ++ 0x7E :: t) =
        ⟨e, d.length - 4, frame, true, (d.drop 2).take (d.length - 4)⟩) ∧
    (¬ valid →
      decodeFrame (g ++ List.replicate n 0x7E ++ body ++ 0x7E :: t) =
        ⟨e, d.length - 2, frame, false, d.drop 2⟩))

/-- R150: decoding an encoded frame gives it back with `valid = 1`, also after flag-free garbage and before anything;
the closing flag is not consumed. -/
def Obligations.DecodeInvertsEncode : Prop :=
  ∀ (frame : Frame) (payload g t : List Byte),
    (0x7E : Byte) ∉ g →
    decodeFrame (g ++ encodeFrame frame payload ++ t) =
      ⟨g.length + (encodeFrame frame payload).length - 1, payload.length, some frame, true, payload⟩

/-- R148: the byte-serial machine is the same function as the two phases of R146 and R147. -/
def Obligations.SerialParserEqualsDecoder : Prop :=
  ∀ input : List Byte, decodeFrameSerial input = decodeFrame input

/-- R152: what `decode_frame` consumes: nothing exactly in policy row 2 and for the empty input, else between 1 octet
and all; at least 3 with a frame; and after row 3 or 4 the rest begins with the end flag. -/
def Obligations.DecodeConsumptionMakesProgress : Prop :=
  (∀ input : List Byte,
    (decodeFrame input).consumed = 0 ↔
      input = [] ∨
      ∃ (g : List Byte) (n : Nat) (body : List Byte),
        (0x7E : Byte) ∉ g ∧ 1 ≤ n ∧ (0x7E : Byte) ∉ body ∧ input = g ++ List.replicate n 0x7E ++ body) ∧
  (∀ input : List Byte, (decodeFrame input).consumed ≤ input.length) ∧
  (∀ input : List Byte, (decodeFrame input).frame ≠ none → 3 ≤ (decodeFrame input).consumed) ∧
  (∀ input : List Byte, (0x7E : Byte) ∈ input → 1 ≤ (decodeFrame input).consumed →
    (input.drop (decodeFrame input).consumed).head? = some 0x7E)

/-- R109 (e), R151: a valid frame's content with exactly one decoded octet changed, stuffed and framed again, decodes to
`valid = 0`. -/
def Obligations.CorruptedOctetYieldsInvalid : Prop :=
  ∀ (p q : List Byte) (x y : Byte),
    fcsFold 0xFFFF (p ++ x :: q) = 0xF0B8 → x ≠ y →
    (decodeFrame ([0x7E] ++ stuff (p ++ y :: q) ++ [0x7E])).valid = false

/-! ### Receiver -/

/-- R161: `RX_WRITE` appends all of its bytes when they fit, also exactly; none change nothing, also on a full buffer;
otherwise it raises `ERR_RX_CAPACITY` and the state is what it was. -/
def Obligations.RxWriteAppendsOrChangesNothing : Prop :=
  (∀ s : State, s.rxBuf.wf = true → exec (.rxWrite []) s = .next { s with response := .done }) ∧
  ∀ (bytes : List Byte) (s : State),
    encode (.rxWrite bytes) = .command 0x10 [.octets bytes] ∧
    (bytes.length ≤ s.params.rxCap - s.rxLen →
      exec (.rxWrite bytes) s =
        .next { s with rxBuf := Memory.ofBytes (s.rxBuf.bytes ++ bytes), response := .done }) ∧
    (s.params.rxCap - s.rxLen < bytes.length →
      exec (.rxWrite bytes) s = .next { s with response := .error .rxCapacity })

/-- R54, R55: where the two writes store. A write stores at the buffer's length and the addresses after it; every other
address of the buffer reads as before. -/
def Obligations.WritesStoreAtTailOnly : Prop :=
  (∀ (bytes : List Byte) (s : State),
    s.rxBuf.wf = true → bytes.length ≤ s.params.rxCap - s.rxLen →
    ∃ t, exec (.rxWrite bytes) s = .next t ∧ t.rxLen = s.rxLen + bytes.length ∧
      (∀ i, i < bytes.length → t.rxBuf.read (s.rxLen + i) = bytes[i]?) ∧
      (∀ a, (∀ i, i < bytes.length → a ≠ s.rxLen + i) → t.rxBuf.read a = s.rxBuf.read a)) ∧
  (∀ (frame : Frame) (payload : List Byte) (priority : Nat) (retryable : Bool) (s : State),
    s.txBuf.wf = true → priority < 2 ^ s.params.prioW → payload.length ≤ s.params.txCap - s.txLen →
    s.params.txqDepth ≠ some s.txq.length →
    ∃ t, exec (.txWriteFrame frame payload priority retryable) s = .next t ∧ t.txLen = s.txLen + payload.length ∧
      (∀ i, i < payload.length → t.txBuf.read (s.txLen + i) = payload[i]?) ∧
      (∀ a, (∀ i, i < payload.length → a ≠ s.txLen + i) → t.txBuf.read a = s.txBuf.read a))

/-- R162: one pass of the loop of `RX_READ_FRAME`. A frame is returned with its payload in `RX_PAY[0..payload_length)` and
the consumed octets gone; nothing consumed and no frame is `(0, none, 0)`; octets consumed and no frame is the same
operation on what is left. -/
def Obligations.RxReadFrameFollowsLoop : Prop :=
  encode .rxReadFrame = .command 0x11 [] ∧
  ∀ s : State,
    let r := decodeFrame s.rxBuf.bytes
    let left := Memory.ofBytes (s.rxBuf.bytes.drop r.consumed)
    (r.frame ≠ none →
      ∃ pay : Memory, memRead pay 0 r.payloadLength = r.payload ∧
        exec .rxReadFrame s =
          .next { s with rxBuf := left, rxPay := pay, response := .frameRead r.payloadLength r.frame r.valid }) ∧
    (r.frame = none → r.consumed = 0 →
      ∃ pay : Memory, exec .rxReadFrame s = .next { s with rxPay := pay, response := .frameRead 0 none false }) ∧
    (r.frame = none → 1 ≤ r.consumed → exec .rxReadFrame s = exec .rxReadFrame { s with rxBuf := left })

/-- R165: `RX_READ_FRAME` always completes, and its loop needs at most `RX_LEN / 2 + 2` passes: with that many, or any
larger number, it gives the same answer. -/
def Obligations.RxReadFrameTerminates : Prop :=
  (∀ s : State, ∃ t, exec .rxReadFrame s = .next t) ∧
  ∀ (m : Memory) (fuel : Nat), m.length / 2 + 2 ≤ fuel → readLoop fuel m = readLoop (m.length / 2 + 2) m

/-- R166: after a returned frame the buffer begins with that frame's end flag. -/
def Obligations.ReturnedFrameLeavesEndFlag : Prop :=
  ∀ (s t : State) (p : Nat) (f : Frame) (v : Bool),
    exec .rxReadFrame s = .next t → t.response = .frameRead p (some f) v →
    1 ≤ t.rxLen ∧ t.rxBuf.bytes.head? = some 0x7E

/-- R162, R35: when a frame is returned, `RX_PAY` holds the `payload_length` bytes reported, and they fit `PAY_CAP` whenever
the buffer was within `RX_CAP`. (That it lists no further byte is the model's form: log 4.) -/
def Obligations.ReturnedPayloadIsInResultBuffer : Prop :=
  ∀ (s t : State) (p : Nat) (f : Frame) (v : Bool),
    exec .rxReadFrame s = .next t → t.response = .frameRead p (some f) v →
    t.rxPay.wf = true ∧ t.rxPay.length = p ∧ (s.rxLen ≤ s.params.rxCap → p ≤ s.params.payCap)

/-- R163, R164: `RX_RESET` empties the buffer and leaves every other unit as it is (what it does to `RX_PAY` the spec
leaves unspecified), after which `RX_READ_FRAME` returns `(0, none, 0)`; `RX_STATUS` reports `RX_LEN` and changes
nothing but the response. -/
def Obligations.RxResetEmptiesAndStatusReports : Prop :=
  encode .rxReset = .command 0x12 [] ∧ encode .rxStatus = .command 0x13 [] ∧
  ∀ s : State,
    (∃ t, exec .rxReset s = .next t ∧ t.rxLen = 0 ∧ t.response = .done ∧
      sameFcs s t ∧ sameSender s t ∧ sameSurroundings s t ∧
      ∃ u, exec .rxReadFrame t = .next u ∧ u.response = .frameRead 0 none false) ∧
    exec .rxStatus s = .next { s with response := .rxLength s.rxLen }

/-- R167, R291: in the stuck condition every `RX_WRITE` of one or more bytes raises the capacity error, every
`RX_READ_FRAME` frees nothing, and every operation and wire unit but `RX_RESET` leaves the Receiver stuck. -/
def Obligations.StuckReceiverNeedsReset : Prop :=
  ∀ s : State, StuckReceiver s →
    (∀ bytes : List Byte, bytes ≠ [] →
      exec (.rxWrite bytes) s = .next { s with response := .error .rxCapacity }) ∧
    (∃ pay : Memory, exec .rxReadFrame s = .next { s with rxPay := pay, response := .frameRead 0 none false }) ∧
    (∀ (i : Instr) (t : State), i ≠ .rxReset → exec i s = .next t → StuckReceiver t) ∧
    ∃ t, exec .rxReset s = .next t ∧ t.rxLen = 0 ∧ ¬ StuckReceiver t

/-! ### Sender -/

/-- R184, R181: `TX_WRITE_FRAME` appends the payload and inserts a new item in service order; when the payload does not
fit or the queue holds `TXQ_DEPTH` items it raises `ERR_TX_CAPACITY` and the state is what it was. -/
def Obligations.TxWriteFrameEnqueuesOrChangesNothing : Prop :=
  ∀ (frame : Frame) (payload : List Byte) (priority : Nat) (retryable : Bool) (s : State),
    priority < 2 ^ s.params.prioW →
    encode (.txWriteFrame frame payload priority retryable) =
      .command 0x18 [.octets [frame.address, packControl frame.control], .octets payload, .number priority,
        .number (if retryable = true then 1 else 0)] ∧
    (payload.length ≤ s.params.txCap - s.txLen → s.params.txqDepth ≠ some s.txq.length →
      exec (.txWriteFrame frame payload priority retryable) s =
        .next { s with
          txBuf := Memory.ofBytes (s.txBuf.bytes ++ payload),
          txq := insertItem s.txq
            { off := s.txLen, len := payload.length, frame := frame, prio := priority, retryable := retryable,
              ageMs := 0, attempts := 0 },
          response := .done }) ∧
    (s.params.txCap - s.txLen < payload.length ∨ s.params.txqDepth = some s.txq.length →
      exec (.txWriteFrame frame payload priority retryable) s = .next { s with response := .error .txCapacity })

/-- R182, R31: in a queue in service order, an item is inserted after every item of greater or equal priority and before
every item of smaller priority. -/
def Obligations.InsertionKeepsServiceOrder : Prop :=
  ∀ (q : List Item) (it : Item), ServiceOrdered q →
    ServiceOrdered (insertItem q it) ∧
    ∃ before after : List Item,
      q = before ++ after ∧ insertItem q it = before ++ it :: after ∧
      (∀ t ∈ before, it.prio ≤ t.prio) ∧ (∀ t ∈ after, t.prio < it.prio)

/-- R185, with R186 to R189: the six steps of `TX_READ`. 0 on an empty queue; a head never sent is sent at once whatever
`elapsed_ms`; a head not yet due only ages, by exactly `elapsed_ms`; a due head with attempts left is sent again, its
age back at 0; a due head sent `WRITE_RETRIES + 1` times is removed with its payload and `ERR_TX_TIMEOUT` raised,
nothing sent. A non-retryable head is removed after it is sent. -/
def Obligations.TxReadFollowsSixSteps : Prop :=
  (∀ e : Nat, encode (.txRead e) = .command 0x19 [.number e]) ∧
  ∀ (e : Nat) (s : State), s.params.timeFits e = true →
    (s.txq = [] →
      ∃ m : Memory, exec (.txRead e) s = .next { s with txOut := m, response := .sent 0 }) ∧
    ∀ (h : Item) (rest : List Item), s.txq = h :: rest →
      (1 ≤ h.attempts → h.ageMs + e < s.params.writeTimeoutMs →
        ∃ m : Memory, exec (.txRead e) s =
          .next { s with txq := { h with ageMs := h.ageMs + e } :: rest, txOut := m, response := .sent 0 }) ∧
      (s.params.writeRetries + 1 ≤ h.attempts → s.params.writeTimeoutMs ≤ h.ageMs + e →
        ∃ m : Memory, exec (.txRead e) s =
          .next { s with txBuf := cut s.txBuf h.off h.len, txq := rest.map (Item.afterRemoval h), txOut := m,
                         response := .error .txTimeout }) ∧
      ∀ h' : Item,
        (h.attempts = 0 ∧ h' = { h with attempts := 1 } ∨
          1 ≤ h.attempts ∧ h.attempts ≤ s.params.writeRetries ∧ s.params.writeTimeoutMs ≤ h.ageMs + e ∧
            h' = { h with ageMs := 0, attempts := h.attempts + 1 }) →
        let out := encodeFrame h.frame (memRead s.txBuf h.off h.len)
        6 ≤ out.length ∧ out.length ≤ 2 * h.len + 10 ∧ (h.len ≤ s.params.txCap → out.length ≤ s.params.outCap) ∧
        ∃ m : Memory, memRead m 0 out.length = out ∧
          (h.retryable = true →
            exec (.txRead e) s = .next { s with txq := h' :: rest, txOut := m, response := .sent out.length }) ∧
          (h.retryable = false →
            exec (.txRead e) s =
              .next { s with txBuf := cut s.txBuf h.off h.len, txq := rest.map (Item.afterRemoval h), txOut := m,
                             response := .sent out.length })

/-- R183: only the head is sent or aged. After `TX_READ` the queue is the head, alike but for age and attempts, before
the same other items; or the other items alone, alike but for their offsets. -/
def Obligations.TxReadTouchesOnlyHead : Prop :=
  ∀ (e : Nat) (s t : State) (h : Item) (rest : List Item),
    s.txq = h :: rest → exec (.txRead e) s = .next t →
    (∃ age tries, t.txq = { h with ageMs := age, attempts := tries } :: rest ∧ t.txBuf = s.txBuf) ∨
    (t.txq = rest.map (Item.afterRemoval h) ∧ t.txBuf = cut s.txBuf h.off h.len)

/-- R190: `TX_REMOVE` takes out the first item in service order that was transmitted at least once and whose variant and
field match; with none it changes nothing. A key with bits above the field's width matches nothing. -/
def Obligations.TxRemoveTakesFirstMatch : Prop :=
  ∀ (kind : Kind) (key : BitVec 5) (s : State),
    let hit : Item → Prop := fun it =>
      1 ≤ it.attempts ∧
      match kind, it.frame.control with
      | .information, .information _ _ ns => ns.toNat = key.toNat
      | .supervisory, .supervisory _ _ stype => stype.toNat = key.toNat
      | .unnumbered, .unnumbered _ utype => utype.toNat = key.toNat
      | _, _ => False
    encode (.txRemove kind key) = .command 0x1A [.number (kindNumber kind), .number key.toNat] ∧
    (∀ (before after : List Item) (it : Item),
      s.txq = before ++ it :: after → hit it → (∀ b ∈ before, ¬ hit b) →
      exec (.txRemove kind key) s =
        .next { s with txBuf := cut s.txBuf it.off it.len, txq := (before ++ after).map (Item.afterRemoval it),
                       response := .removed true }) ∧
    ((∀ it ∈ s.txq, ¬ hit it) → exec (.txRemove kind key) s = .next { s with response := .removed false })

/-- R57, R191: removing an item shifts down by its length every byte behind its payload and leaves every byte before it;
the offsets of the items behind it follow, all other fields stay. -/
def Obligations.RemovalShiftsLaterBytes : Prop :=
  (∀ (j : Nat) (s : State) (r : Item),
    s.txBuf.wf = true → s.txq[j]? = some r → r.off + r.len ≤ s.txLen →
    (removeItem j s).txLen = s.txLen - r.len ∧
    (∀ a, a < r.off → (removeItem j s).txBuf.read a = s.txBuf.read a) ∧
    (∀ a, r.off ≤ a → (removeItem j s).txBuf.read a = s.txBuf.read (a + r.len)) ∧
    (removeItem j s).txq = (s.txq.eraseIdx j).map (Item.afterRemoval r)) ∧
  ∀ r t : Item,
    (r.len = 0 ∨ t.off ≤ r.off → Item.afterRemoval r t = t) ∧
    (1 ≤ r.len → r.off < t.off → Item.afterRemoval r t = { t with off := t.off - r.len })

/-- R191, R32 (c): removing an item loses no payload byte of any other: every item that remains reads, at its corrected
offset, the payload it had. -/
def Obligations.RemovalPreservesOtherPayloads : Prop :=
  ∀ (s : State) (before after : List Item) (r : Item),
    Inv s → s.txq = before ++ r :: after →
    ∀ it ∈ before ++ after,
      memRead (removeItem before.length s).txBuf (Item.afterRemoval r it).off (Item.afterRemoval r it).len =
        memRead s.txBuf it.off it.len

/-- R192, R193: `TX_RESET` empties queue and buffer without transmitting and without an error and leaves every other unit
as it is (what it does to `TX_OUT` the spec leaves unspecified), after which `TX_READ 0` returns 0; `TX_STATUS` reports
the two lengths. -/
def Obligations.TxResetEmptiesAndStatusReports : Prop :=
  encode .txReset = .command 0x1B [] ∧ encode .txStatus = .command 0x1C [] ∧
  ∀ s : State,
    (∃ t, exec .txReset s = .next t ∧ t.txq = [] ∧ t.txLen = 0 ∧ t.response = .done ∧
      sameFcs s t ∧ sameReceiver s t ∧ sameSurroundings s t ∧
      ∃ u, exec (.txRead 0) t = .next u ∧ u.response = .sent 0) ∧
    exec .txStatus s = .next { s with response := .txLengths s.txLen s.txq.length }

/-- R194, R253: in any run of `TX_READ` from a state whose head is a retryable item not yet sent, exactly
`WRITE_RETRIES + 1` transmissions precede the first `ERR_TX_TIMEOUT`, each of the same octets, the head's encoding, and
every other result before it is 0. -/
def Obligations.RetryableFrameIsSentRetriesPlusOneTimes : Prop :=
  ∀ (s t : State) (h : Item) (rest : List Item) (ticks : List Nat) (before after : List Observed) (failure : Observed),
    s.txq = h :: rest → h.retryable = true → h.attempts = 0 →
    runOps (ticks.map Instr.txRead) s = some (t, before ++ failure :: after) →
    failure.result = .error .txTimeout → (∀ o ∈ before, o.result ≠ .error .txTimeout) →
    let out := encodeFrame h.frame (memRead s.txBuf h.off h.len)
    (∀ o ∈ before, o = ⟨.sent 0, []⟩ ∨ o = ⟨.sent out.length, out⟩) ∧
    transmissions before = s.params.writeRetries + 1

/-- R194, R187, R188: from a state whose retryable head was sent at least once, no transmission and no timeout comes before
the told time since its last transmission has reached `WRITE_TIMEOUT_MS`; the call in which it has sends the head's encoding
again while attempts are left, and raises the timeout when none is. -/
def Obligations.NoRetryBeforeTimeout : Prop :=
  ∀ (s : State) (h : Item) (rest : List Item) (waits : List Nat) (last : Nat),
    s.txq = h :: rest → h.retryable = true → 1 ≤ h.attempts →
    (∀ e ∈ waits ++ [last], s.params.timeFits e = true) →
    (waits = [] ∨ h.ageMs + waits.sum < s.params.writeTimeoutMs) →
    let out := encodeFrame h.frame (memRead s.txBuf h.off h.len)
    let due := s.params.writeTimeoutMs ≤ h.ageMs + waits.sum + last
    6 ≤ out.length ∧
    ∃ (t : State) (o : Observed),
      runOps ((waits ++ [last]).map Instr.txRead) s = some (t, List.replicate waits.length ⟨.sent 0, []⟩ ++ [o]) ∧
      (¬ due → o = ⟨.sent 0, []⟩) ∧
      (due → h.attempts ≤ s.params.writeRetries → o = ⟨.sent out.length, out⟩) ∧
      (due → s.params.writeRetries < h.attempts → o = ⟨.error .txTimeout, []⟩)

/-! ### Invariants -/

/-- R39, R27, R32: the invariants hold of the state after reset. -/
def Obligations.ResetSatisfiesInvariants : Prop := Inv State.reset

/-- R27, R32: every step, whatever the host has issued, keeps the invariants: buffers within their capacities, the
payloads of the pending items partitioning the send buffer, the queue in service order, ages and attempts in
range. -/
def Obligations.EveryStepKeepsInvariants : Prop :=
  ∀ s t : State, Inv s → step s = .next t → Inv t

/-! ### The machine -/

/-- R9, R58: when what the host has issued next decodes to an instruction, a step is that instruction's meaning on the
state without it; raw octets without a row are read by the table of R88 (R71). -/
def Obligations.StepRunsDecodedInstruction : Prop :=
  ∀ (s : State) (issue : Issue) (rest : List Issue),
    s.params.legal = true → s.host = issue :: rest →
    (∀ i : Instr, decodeIssue issue = .ok (.instr i) → step s = exec i { s with host := rest }) ∧
    (∀ xs : List Byte, decodeIssue issue = .ok (.raw xs) → step s = takeRawOctets xs { s with host := rest })

/-- R282: while the host has issued nothing the block does nothing. R84, R85: a command that decodes to nothing is refused by
its reason. R80, U8: no unit of the raw octet stream is refused. U5: an instance with parameters outside their
constraints is refused. -/
def Obligations.StepIdlesOrRefusesOtherwise : Prop :=
  (∀ s : State, s.params.legal = true → s.host = [] → step s = .next s) ∧
  (∀ (s : State) (issue : Issue) (rest : List Issue) (reason : DecodeError),
    s.params.legal = true → s.host = issue :: rest → decodeIssue issue = .error reason →
    step s = .refused (.undecodable reason)) ∧
  (∀ (s : State) (issue : Issue) (rest : List Issue),
    s.params.legal = true → s.host = issue :: rest → (∀ code operands, issue ≠ .command code operands) →
    ∃ t, step s = .next t) ∧
  (∀ s : State, s.params.legal = false → step s = .refused .illegalInstance)

/-- R83, R85, R73, R71, R72: the decoder gives back every instruction from what the encoder writes for it, every operand at
every value. -/
def Obligations.DecodeInvertsEncodeOfInstructions : Prop :=
  ∀ i : Instr, decodeIssue (encode i) = .ok (.instr i)

/-- R83, R73, R78, R79, R71, R72: words written out from the spec's encodings decode to the instructions they stand for. -/
def Obligations.SpecWordsDecode : Prop :=
  decodeIssue (.command 0b00000001 [.octets [0xAA]]) = .ok (.instr (.fcsUpdate 0xAA)) ∧
  decodeIssue (.command 0b00001001 [.octets [0xAA, 0x53], .octets []]) =
    .ok (.instr (.encode { address := 0xAA, control := .unnumbered 1 8 } [])) ∧
  decodeIssue (.command 0b00010001 []) = .ok (.instr .rxReadFrame) ∧
  decodeIssue (.command 0b00011010 [.number 2, .number 8]) = .ok (.instr (.txRemove .unnumbered 8)) ∧
  decodeIssue (.controlVariant 0b01001010) = .ok (.instr (.ctrlInformation 2 0 5)) ∧
  decodeIssue (.controlVariant 0b01111101) = .ok (.instr (.ctrlSupervisory 3 1 3)) ∧
  decodeIssue (.controlVariant 0b10100111) = .ok (.instr (.ctrlUnnumbered 0 21)) ∧
  decodeIssue (.controlType 0b11111001) = .ok (.instr (.ctrlReceiveNotReady 7 1)) ∧
  decodeIssue (.controlType 0b01110011) = .ok (.instr (.ctrlAcknowledge 1)) ∧
  decodeIssue (.octet 0b01111110) = .ok (.instr .flag) ∧
  decodeIssue (.escapePair 0b01111101 0b01011101) = .ok (.instr .escEscape)

/-- R84: every command code R83 does not assign is refused, whatever operands come with it. -/
def Obligations.UnassignedCodesAreRefused : Prop :=
  ∀ (code : Byte) (operands : List Operand) (s : State) (rest : List Issue),
    (0x05 ≤ code.toNat ∧ code.toNat ≤ 0x07 ∨ 0x0B ≤ code.toNat ∧ code.toNat ≤ 0x0F ∨
      0x14 ≤ code.toNat ∧ code.toNat ≤ 0x17 ∨ 0x1D ≤ code.toNat) →
    s.params.legal = true → s.host = .command code operands :: rest →
    step s = .refused (.undecodable (.unassignedCode code))

/-- R265, R85: an instruction completes exactly when its operands are inside their bounds; outside them it is refused and
there is no next state. Errors are values, and nothing faults. -/
def Obligations.InstructionsCompleteWithinBounds : Prop :=
  ∀ (i : Instr) (s : State),
    (i.wellFormed s.params = true → ∃ t, exec i s = .next t) ∧
    (i.wellFormed s.params = false → ∃ why, exec i s = .refused why)

/-- R250: the status codes; which error each operation can raise and its cause; every other instruction raises none. -/
def Obligations.ErrorsComeFromThreeOperations : Prop :=
  Error.rxCapacity.code = 1 ∧ Error.txCapacity.code = 2 ∧ Error.txTimeout.code = 3 ∧
  (∀ r : Response, r.status = 0 ↔ ∀ e : Error, r ≠ .error e) ∧
  (∀ e : Error, (Response.error e).status = e.code) ∧
  ∀ (i : Instr) (s t : State) (e : Error), exec i s = .next t → t.response = .error e →
    (∃ bytes, i = .rxWrite bytes ∧ s.params.rxCap - s.rxLen < bytes.length) ∧ e = .rxCapacity ∨
    (∃ frame payload priority retryable, i = .txWriteFrame frame payload priority retryable ∧
      (s.params.txCap - s.txLen < payload.length ∨ s.params.txqDepth = some s.txq.length)) ∧ e = .txCapacity ∨
    (∃ elapsed h rest, i = .txRead elapsed ∧ s.txq = h :: rest ∧ s.params.writeRetries + 1 < h.attempts + 1) ∧
      e = .txTimeout

/-- R39, R280, R281: what reset leaves, and that `FCS_INIT`, `RX_RESET` and `TX_RESET` in any order leave the same state
from any state. The result buffers are unspecified (`∃ pay out`); the parameters stay; the response and what the host has
issued are the model's own fields (log 6, log 11). -/
def Obligations.PartialResetsReachResetState : Prop :=
  (State.reset.fcsAcc = 0xFFFF ∧ State.reset.rxLen = 0 ∧ State.reset.txLen = 0 ∧ State.reset.txq = []) ∧
  ∀ (s : State) (ops : List Instr), ops.Perm hwReset →
    ∃ pay out : Memory,
      runOps ops s =
        some ({ State.reset with params := s.params, rxPay := pay, txOut := out, response := .done, host := s.host },
          List.replicate 3 ⟨.done, []⟩)

/-- R282: after reset the block does nothing until the host issues something, and the results of the operations on the
reset state, whatever the parameters of the instance. -/
def Obligations.FirstOperationResultsAfterReset : Prop :=
  ∀ p : Params,
    let s := { State.reset with params := p }
    let gives (i : Instr) (r : Response) : Prop := ∃ t, exec i s = .next t ∧ t.response = r
    (p.legal = true → step s = .next s) ∧
    gives .fcsRead (.accumulator 0xFFFF) ∧ gives .fcsFinal (.fcsBytes 0x00 0x00) ∧ gives .fcsCheck (.good false) ∧
    gives .rxReadFrame (.frameRead 0 none false) ∧ gives .rxStatus (.rxLength 0) ∧
    (∀ e, p.timeFits e = true → gives (.txRead e) (.sent 0)) ∧
    (∀ kind key, gives (.txRemove kind key) (.removed false)) ∧ gives .txStatus (.txLengths 0 0) ∧
    (∀ bytes : List Byte, bytes.length ≤ p.rxCap → gives (.rxWrite bytes) .done) ∧
    (∀ frame (payload : List Byte) priority retryable, p.legal = true → priority < 2 ^ p.prioW →
      payload.length ≤ p.txCap → gives (.txWriteFrame frame payload priority retryable) .done) ∧
    (∀ v, gives (.escByte v) (.octets (escapeOctet v))) ∧
    (∀ frame (payload : List Byte), payload.length ≤ p.txCap →
      gives (.encode frame payload) (.octets (encodeFrame frame payload))) ∧
    (∀ input : List Byte, input.length ≤ p.rxCap → gives (.decode input) (.decoded (decodeFrame input)))

/-! ### Frames and isolation -/

/-- R40, R41: each instruction writes only its own unit: the FCS operations `FCS_ACC`, the codec operations nothing, the
Receiver's operations the Receiver, the Sender's the Sender; the wire units write the response alone (R37); none writes a
parameter or what the host has issued. -/
def Obligations.InstructionsWriteOnlyTheirUnit : Prop :=
  ∀ (i : Instr) (s t : State), exec i s = .next t →
    sameSurroundings s t ∧
    (match i with
     | .fcsInit | .fcsUpdate _ => sameReceiver s t ∧ sameSender s t
     | .fcsRead | .fcsFinal | .fcsCheck | .escByte _ | .encode _ _ | .decode _ | .rxStatus | .txStatus
     | .ctrlInformation _ _ _ | .ctrlSupervisory _ _ _ | .ctrlUnnumbered _ _ | .ctrlReceiveReady _ _
     | .ctrlReject _ _ | .ctrlReceiveNotReady _ _ | .ctrlSelectiveReject _ _ | .ctrlModeSet _ | .ctrlAcknowledge _
     | .flag | .escape | .escFlag | .escEscape =>
       t = { s with response := t.response }
     | .rxWrite _ => sameFcs s t ∧ sameSender s t ∧ t.rxPay = s.rxPay
     | .rxReadFrame | .rxReset => sameFcs s t ∧ sameSender s t
     | .txWriteFrame _ _ _ _ | .txRemove _ _ => sameFcs s t ∧ sameReceiver s t ∧ t.txOut = s.txOut
     | .txRead _ | .txReset => sameFcs s t ∧ sameReceiver s t)

/-- R40, R41: no unit learns anything of another: with equal parameters, the Receiver's results and new state depend only
on the Receiver, the Sender's only on the Sender, the FCS engine's only on `FCS_ACC`, the codec's and the wire units' on nothing. -/
def Obligations.UnitsDoNotObserveEachOther : Prop :=
  ∀ (i : Instr) (s s' t t' : State), s.params = s'.params → exec i s = .next t → exec i s' = .next t' →
    (match i with
     | .fcsInit | .fcsUpdate _ | .fcsRead | .fcsFinal | .fcsCheck =>
       sameFcs s s' → sameFcs t t' ∧ t.response = t'.response
     | .rxWrite _ | .rxReadFrame | .rxReset | .rxStatus =>
       sameReceiver s s' → sameReceiver t t' ∧ t.response = t'.response
     | .txWriteFrame _ _ _ _ | .txRead _ | .txRemove _ _ | .txReset | .txStatus =>
       sameSender s s' → sameSender t t' ∧ t.response = t'.response
     | .escByte _ | .encode _ _ | .decode _
     | .ctrlInformation _ _ _ | .ctrlSupervisory _ _ _ | .ctrlUnnumbered _ _ | .ctrlReceiveReady _ _
     | .ctrlReject _ _ | .ctrlReceiveNotReady _ _ | .ctrlSelectiveReject _ _ | .ctrlModeSet _ | .ctrlAcknowledge _
     | .flag | .escape | .escFlag | .escEscape => t.response = t'.response)

/-! ### The wire units -/

/-- R88, R71: what a raw octet means at each of the four places of a scan, `HUNT`, `OPEN`, `CONTENT` without and with an
escape pending: `FLAG`, `ESCAPE`, and any other octet `x`; and that the byte-serial parser of R148 reads every octet so.
(That the answer is given for each place, and where the scan stands after an end flag, are the model's: log 8, log 10.) -/
def Obligations.ParserReadsRawOctetByState : Prop :=
  (∀ s : State,
    exec .flag s =
      .next { s with
        response := .read ⟨⟨.opening, [], []⟩, ⟨.opening, [], []⟩, ⟨.opening, [], [false]⟩, ⟨.opening, [], [true]⟩⟩ none } ∧
    exec .escape s =
      .next { s with
        response := .read ⟨⟨.hunt, [], []⟩, ⟨.pending, [], []⟩, ⟨.pending, [], []⟩, ⟨.content, [0x5D], []⟩⟩ none } ∧
    ∀ x : Byte, x ≠ 0x7E → x ≠ 0x7D →
      takeRawOctets [x] s =
        .next { s with
          response := .read ⟨⟨.hunt, [], []⟩, ⟨.content, [x], []⟩, ⟨.content, [x], []⟩, ⟨.content, [x ^^^ 0x20], []⟩⟩
            none }) ∧
  ∀ (sc : Scan) (x : Byte),
    let r := readOctet sc.place x
    let decodedBefore := if sc.phase = .content then sc.decoded else []
    (sc.octet x).1.place = r.after ∧
    ((sc.octet x).1.phase = .content → (sc.octet x).1.decoded = decodedBefore ++ r.decoded) ∧
    (r.frameEnds = [] → (sc.octet x).2 = none) ∧
    ∀ trailing, r.frameEnds = [trailing] →
      ∃ d, (sc.octet x).2 = some d ∧ d.consumed = sc.index ∧ (trailing = true → d.valid = false)

/-- R72, R88: `7D 5E` is the one decoded octet `0x7E`, and `7D 5D` the one decoded octet `0x7D`, in content with no escape
pending and straight after the opening flags, where it is the address; before any flag both are garbage; after another
marker the first of the two octets is the decoded octet `0x5D`. So as what the two instructions answer, and as what the
two octets do to the byte-serial parser of R148. -/
def Obligations.EscapeSequencesDecodeToReservedOctets : Prop :=
  (∀ s : State,
    exec .escFlag s =
      .next { s with
        response := .read ⟨⟨.hunt, [], []⟩, ⟨.content, [0x7E], []⟩, ⟨.content, [0x7E], []⟩, ⟨.content, [0x5D, 0x5E], []⟩⟩
          none } ∧
    exec .escEscape s =
      .next { s with
        response := .read ⟨⟨.hunt, [], []⟩, ⟨.content, [0x7D], []⟩, ⟨.content, [0x7D], []⟩, ⟨.content, [0x5D, 0x5D], []⟩⟩
          none }) ∧
  ∀ (sc : Scan) (v : Byte), v = 0x7E ∨ v = 0x7D →
    let after := sc.octets [0x7D, v ^^^ 0x20]
    after.2 = [] ∧
    (sc.phase = .hunt → after.1 = { sc with index := sc.index + 2 }) ∧
    (sc.phase = .opening →
      after.1 = { phase := .content, index := sc.index + 2, pending := false, acc := fcsUpdate 0xFFFF v, decoded := [v] }) ∧
    (sc.phase = .content → sc.pending = false →
      after.1 = { sc with index := sc.index + 2, acc := fcsUpdate sc.acc v, decoded := sc.decoded ++ [v] }) ∧
    (sc.phase = .content → sc.pending = true →
      after.1 = { sc with index := sc.index + 2, pending := false,
                          acc := fcsUpdate (fcsUpdate sc.acc 0x5D) (v ^^^ 0x20),
                          decoded := sc.decoded ++ [0x5D, v ^^^ 0x20] })

/-- R74, R78, R79, R131, R70: a control instruction answers its variant and fields, and its octets, the control byte escaped,
decode to that control byte in content and after the opening flags, are garbage before any flag, and after another marker
are read as R88 says. R133: at offset 1 of a frame's content they give the frame of that variant and fields with the
address before it. -/
def Obligations.ControlByteAtOffsetOneGivesFrame : Prop :=
  let gives (i : Instr) (c : Control) : Prop :=
    (∀ s : State, ∃ rs : Readings,
      exec i s = .next { s with response := .read rs (some c) } ∧
      rs.hunt = ⟨.hunt, [], []⟩ ∧ rs.opening = ⟨.content, [packControl c], []⟩ ∧
      rs.content = ⟨.content, [packControl c], []⟩ ∧
      rs.pending =
        ⟨.content,
          if packControl c = 0x7E ∨ packControl c = 0x7D then [0x5D, packControl c ^^^ 0x20]
          else [packControl c ^^^ 0x20], []⟩) ∧
    ∀ (sc : Scan) (a : Byte), sc.phase = .content → sc.pending = false → sc.decoded = [a] →
      let after := sc.octets (escapeOctet (packControl c))
      after.2 = [] ∧ after.1.frame = some { address := a, control := c } ∧
      after.1 = { sc with index := sc.index + (escapeOctet (packControl c)).length,
                          acc := fcsUpdate sc.acc (packControl c), decoded := [a, packControl c] }
  (∀ nr pf ns, gives (.ctrlInformation nr pf ns) (.information nr pf ns)) ∧
  (∀ nr pf stype, gives (.ctrlSupervisory nr pf stype) (.supervisory nr pf stype)) ∧
  (∀ pf utype, gives (.ctrlUnnumbered pf utype) (.unnumbered pf utype)) ∧
  (∀ nr pf, gives (.ctrlReceiveReady nr pf) (.supervisory nr pf 0)) ∧
  (∀ nr pf, gives (.ctrlReject nr pf) (.supervisory nr pf 1)) ∧
  (∀ nr pf, gives (.ctrlReceiveNotReady nr pf) (.supervisory nr pf 2)) ∧
  (∀ nr pf, gives (.ctrlSelectiveReject nr pf) (.supervisory nr pf 3)) ∧
  (∀ pf, gives (.ctrlModeSet pf) (.unnumbered pf 8)) ∧
  (∀ pf, gives (.ctrlAcknowledge pf) (.unnumbered pf 12))

/-- R148, R88: the octets of an input up to and with the end flag of its first frame give the byte-serial parser exactly the
results of `decode_frame`; read by the table of R88 from `HUNT` they end one frame, whose decoded octets are those
`decode_frame` classifies (R147); and a parser's accumulator stays the fold of what it decoded. -/
def Obligations.WireUnitsRunTheDecoder : Prop :=
  (∀ input : List Byte,
    (0x7E : Byte) ∈ input → 1 ≤ (decodeFrame input).consumed →
    let octets := input.take ((decodeFrame input).consumed + 1)
    (Scan.start.octets octets).2 = [decodeFrame input] ∧
    ∀ s : State, ∃ (rs : Readings) (trailing : Bool),
      takeRawOctets octets s = .next { s with response := .read rs none } ∧
      rs.hunt.frameEnds = [trailing] ∧
      ((decodeFrame input).valid = true ↔
        4 ≤ rs.hunt.decoded.length ∧ trailing = false ∧ fcsFold 0xFFFF rs.hunt.decoded = 0xF0B8) ∧
      (decodeFrame input).frame =
        (match rs.hunt.decoded with
         | a :: c :: _ => some (frameOf a c)
         | _ => none)) ∧
  ∀ (sc : Scan) (x : Byte), sc.Coherent → (sc.octet x).1.Coherent

/-! ### The host's link protocol, beside the block -/

/-- R232, R234, R35: a connected host that receives a valid Information frame for it, in sequence, advances its expected
number modulo 8, answers Receive-Ready carrying the advanced number, and delivers the payload that stands in `RX_PAY`;
otherwise it keeps the number, answers Selective-Reject (`pf` 1) carrying it, and delivers nothing. (The response's
address is the host's: log 19.) -/
def Obligations.HostAnswersInformationFrames : Prop :=
  ∀ (ch : HostChoices) (ss : Session) (f : Frame) (nr : BitVec 3) (pf : BitVec 1) (ns : BitVec 3) (v : Bool),
    ss.initialized = true → (ss.role = .master → f.address = ss.peerAddress) →
    (ss.role = .slave → f.address = ss.configuredAddress) → f.control = .information nr pf ns →
    (∀ payload : List Byte,
      (v = true → ns = ss.sequenceNumber →
        ss.onFrame ch f v payload =
          { session := { ss with sequenceNumber := ss.sequenceNumber + 1 },
            issued := [.txWriteFrame
              { address := ch.responseAddress, control := .supervisory (ss.sequenceNumber + 1) 0 0 } [] 1 false],
            delivered := payload }) ∧
      (v = false ∨ ns ≠ ss.sequenceNumber →
        ss.onFrame ch f v payload =
          { session := ss,
            issued := [.txWriteFrame
              { address := ch.responseAddress, control := .supervisory ss.sequenceNumber 1 3 } [] 1 false],
            delivered := [] })) ∧
    ∀ (s : State) (p : Nat), s.response = .frameRead p (some f) v →
      ss.react ch s = ss.onFrame ch f v (memRead s.rxPay 0 p)

/-- R233, R230, R190: the one operation that a connected host issues on a valid Receive-Ready for it removes the first
transmitted Information frame whose `ns` is `nr - 1 mod 8`, wherever it stands in the queue, and nothing when there is none;
the session stays. -/
def Obligations.ReceiveReadyRemovesAcknowledgedFrame : Prop :=
  ∀ (ch : HostChoices) (ss : Session) (f : Frame) (nr : BitVec 3) (pf : BitVec 1) (payload : List Byte) (s : State),
    ss.initialized = true → (ss.role = .master → f.address = ss.peerAddress) →
    (ss.role = .slave → f.address = ss.configuredAddress) → f.control = .supervisory nr pf 0 →
    let acknowledged : Item → Prop := fun it =>
      1 ≤ it.attempts ∧ ∃ a q b, it.frame.control = .information a q b ∧ b.toNat = (nr.toNat + 7) % 8
    ∃ i : Instr,
      ss.onFrame ch f true payload = { session := ss, issued := [i], delivered := [] } ∧
      (∀ (before after : List Item) (h : Item),
        s.txq = before ++ h :: after → acknowledged h → (∀ it ∈ before, ¬ acknowledged it) →
        exec i s =
          .next { s with txBuf := cut s.txBuf h.off h.len, txq := (before ++ after).map (Item.afterRemoval h),
                         response := .removed true }) ∧
      ((∀ it ∈ s.txq, ¬ acknowledged it) → exec i s = .next { s with response := .removed false })

/-- R221 to R227, R234, R240: a session with a known mode is created disconnected, one with an unknown mode is refused; an
explicit reset disconnects it; a master enqueues the mode-setting frame at creation and a slave nothing; a valid
acknowledge from its peer connects a master, or leaves it connected, and removes the pending mode-setting frame; a valid
mode-setting frame disconnects a master and sets a slave up anew, connected or not; any other valid frame to a
disconnected slave provokes the disconnected-mode response; an invalid frame has no effect on a disconnected session; a
frame for another address is ignored. (The expected number at creation and after a reset, the responses' `pf`, code,
priority and address are the host's, and that an invalid frame to a disconnected session has no effect is the model's:
log 19.) -/
def Obligations.HostHandshakeFollowsRules : Prop :=
  (∀ (ch : HostChoices) (role : Role) (peer configured : Byte) (mode : Nat),
    (mode ∈ ch.knownModes →
      establish ch role peer configured mode = some ⟨ch.initialSequence, false, role, peer, configured, mode⟩) ∧
    (mode ∉ ch.knownModes → establish ch role peer configured mode = none)) ∧
  ∀ (ch : HostChoices) (ss : Session) (pf : BitVec 1) (f : Frame) (v : Bool) (payload : List Byte),
    ss.disconnect = { ss with initialized := false, sequenceNumber := 0 } ∧
    (ss.role = .master →
      ss.onCreation ch =
        [.txWriteFrame { address := ss.peerAddress, control := .unnumbered ch.modeSetPf 8 } [] 3 true]) ∧
    (ss.role = .slave → ss.onCreation ch = []) ∧
    (ss.role = .master → f.address = ss.peerAddress → f.control = .unnumbered pf 12 →
      ss.onFrame ch f true payload =
        { session := { ss with initialized := true }, issued := [.txRemove .unnumbered 8], delivered := [] }) ∧
    (ss.role = .master → f.address = ss.peerAddress → f.control = .unnumbered pf 8 →
      ss.onFrame ch f true payload = { session := ss.disconnect, issued := [], delivered := [] }) ∧
    (ss.role = .slave → f.address = ss.configuredAddress → f.control = .unnumbered pf 8 →
      ss.onFrame ch f true payload =
        { session := { ss with initialized := true, sequenceNumber := 0 },
          issued := [.txReset, .txWriteFrame
            { address := ch.responseAddress, control := .unnumbered ch.acknowledgePf 12 } [] ch.acknowledgePriority
            false],
          delivered := [] }) ∧
    (ss.role = .slave → ss.initialized = false → f.address = ss.configuredAddress →
      (∀ q, f.control ≠ .unnumbered q 8) →
      ss.onFrame ch f true payload =
        { session := ss,
          issued := [.txWriteFrame
            { address := ch.responseAddress, control := .unnumbered ch.disconnectedModePf ch.disconnectedModeType } []
            1 false],
          delivered := [] }) ∧
    (ss.initialized = false → ss.onFrame ch f false payload = { session := ss, issued := [], delivered := [] }) ∧
    (ss.role = .master → f.address ≠ ss.peerAddress →
      ss.onFrame ch f v payload = { session := ss, issued := [], delivered := [] }) ∧
    (ss.role = .slave → f.address ≠ ss.configuredAddress →
      ss.onFrame ch f v payload = { session := ss, issued := [], delivered := [] })
end

