-- ==== Sys2Proof/Laws/State.lean ====
section
/-! SUPPORT. The small lemmas of the state: what each named update does to each field, and the outcomes. -/

namespace Sys2Proof.Machine

/-! ### Ending an operation -/

@[simp] theorem complete_eq (r : Response) (s : State) : complete r s = .next { s with response := r } := rfl

@[simp] theorem raise_eq (e : Error) (s : State) : raise e s = .next { s with response := .error e } := rfl

/-- An outcome that is a next state is that state and no other. -/
theorem next_inj {s t : State} (h : (Host.Outcome.next s : Host.Outcome State Fault Refusal) = .next t) : s = t := by
  cases h; rfl

/-! ### Issuing -/

@[simp] theorem issue_params (i : Issue) (s : State) : (s.issue i).params = s.params := rfl
@[simp] theorem issue_fcsAcc (i : Issue) (s : State) : (s.issue i).fcsAcc = s.fcsAcc := rfl
@[simp] theorem issue_rxBuf (i : Issue) (s : State) : (s.issue i).rxBuf = s.rxBuf := rfl
@[simp] theorem issue_rxPay (i : Issue) (s : State) : (s.issue i).rxPay = s.rxPay := rfl
@[simp] theorem issue_txBuf (i : Issue) (s : State) : (s.issue i).txBuf = s.txBuf := rfl
@[simp] theorem issue_txq (i : Issue) (s : State) : (s.issue i).txq = s.txq := rfl
@[simp] theorem issue_txOut (i : Issue) (s : State) : (s.issue i).txOut = s.txOut := rfl
@[simp] theorem issue_response (i : Issue) (s : State) : (s.issue i).response = s.response := rfl
@[simp] theorem issue_host (i : Issue) (s : State) : (s.issue i).host = i :: s.host := rfl

/-- What the host has issued next is what is taken next. -/
@[simp] theorem fetch_issue (i : Issue) (s : State) : fetch (s.issue i) = some (i, s) := rfl

/-! ### The lengths -/

@[simp] theorem rxLen_eq (s : State) : s.rxLen = s.rxBuf.length := rfl
@[simp] theorem txLen_eq (s : State) : s.txLen = s.txBuf.length := rfl

/-! ### Removing an item: only `txBuf` and `txq` -/

theorem removeItem_some {j : Nat} {s : State} {r : Item} (h : s.txq[j]? = some r) :
    removeItem j s =
      { s with txBuf := cut s.txBuf r.off r.len, txq := (s.txq.eraseIdx j).map (Item.afterRemoval r) } := by
  simp [removeItem, h]

theorem removeItem_none {j : Nat} {s : State} (h : s.txq[j]? = none) : removeItem j s = s := by
  simp [removeItem, h]

/-- All a removal can write. -/
theorem removeItem_writes (j : Nat) (s : State) :
    ∃ m q, removeItem j s = { s with txBuf := m, txq := q } := by
  unfold removeItem
  split
  · exact ⟨s.txBuf, s.txq, rfl⟩
  · exact ⟨_, _, rfl⟩

@[simp] theorem removeItem_params (j : Nat) (s : State) : (removeItem j s).params = s.params := by
  obtain ⟨m, q, h⟩ := removeItem_writes j s; rw [h]
@[simp] theorem removeItem_fcsAcc (j : Nat) (s : State) : (removeItem j s).fcsAcc = s.fcsAcc := by
  obtain ⟨m, q, h⟩ := removeItem_writes j s; rw [h]
@[simp] theorem removeItem_rxBuf (j : Nat) (s : State) : (removeItem j s).rxBuf = s.rxBuf := by
  obtain ⟨m, q, h⟩ := removeItem_writes j s; rw [h]
@[simp] theorem removeItem_rxPay (j : Nat) (s : State) : (removeItem j s).rxPay = s.rxPay := by
  obtain ⟨m, q, h⟩ := removeItem_writes j s; rw [h]
@[simp] theorem removeItem_txOut (j : Nat) (s : State) : (removeItem j s).txOut = s.txOut := by
  obtain ⟨m, q, h⟩ := removeItem_writes j s; rw [h]
@[simp] theorem removeItem_response (j : Nat) (s : State) : (removeItem j s).response = s.response := by
  obtain ⟨m, q, h⟩ := removeItem_writes j s; rw [h]
@[simp] theorem removeItem_host (j : Nat) (s : State) : (removeItem j s).host = s.host := by
  obtain ⟨m, q, h⟩ := removeItem_writes j s; rw [h]

/-- Removing the head. -/
theorem removeItem_head {s : State} {h : Item} {rest : List Item} (hq : s.txq = h :: rest) :
    removeItem 0 s =
      { s with txBuf := cut s.txBuf h.off h.len, txq := rest.map (Item.afterRemoval h) } := by
  have h0 : s.txq[0]? = some h := by simp [hq]
  rw [removeItem_some h0, hq]
  rfl

/-! ### The offset correction: only `off` -/

@[simp] theorem afterRemoval_len (r t : Item) : (Item.afterRemoval r t).len = t.len := by
  unfold Item.afterRemoval; split <;> rfl
@[simp] theorem afterRemoval_frame (r t : Item) : (Item.afterRemoval r t).frame = t.frame := by
  unfold Item.afterRemoval; split <;> rfl
@[simp] theorem afterRemoval_prio (r t : Item) : (Item.afterRemoval r t).prio = t.prio := by
  unfold Item.afterRemoval; split <;> rfl
@[simp] theorem afterRemoval_retryable (r t : Item) : (Item.afterRemoval r t).retryable = t.retryable := by
  unfold Item.afterRemoval; split <;> rfl
@[simp] theorem afterRemoval_ageMs (r t : Item) : (Item.afterRemoval r t).ageMs = t.ageMs := by
  unfold Item.afterRemoval; split <;> rfl
@[simp] theorem afterRemoval_attempts (r t : Item) : (Item.afterRemoval r t).attempts = t.attempts := by
  unfold Item.afterRemoval; split <;> rfl

/-- With nothing cut, no offset changes (R57, R191). -/
theorem afterRemoval_of_len_zero {r : Item} (h : r.len = 0) (t : Item) : Item.afterRemoval r t = t := by
  simp [Item.afterRemoval, h]

end Sys2Proof.Machine
end

