-- ==== Sys2Proof/Laws/Ops.lean ====
section
/-! SUPPORT. The byte buffers: what each primitive leaves (spec/20_memory.md R54 to R57), that every one keeps the
canonical form, and reading one byte. -/

namespace Sys2Proof.Machine

/-! ### Laying out and reading back -/

@[simp] theorem bytes_ofBytesFrom (a : Nat) (s : List Byte) : Memory.bytes (Memory.ofBytesFrom a s) = s := by
  induction s generalizing a with
  | nil => rfl
  | cons b rest ih => simpa [Memory.ofBytesFrom, Memory.bytes] using ih (a + 1)

@[simp] theorem bytes_ofBytes (s : List Byte) : Memory.bytes (Memory.ofBytes s) = s := bytes_ofBytesFrom 0 s

@[simp] theorem bytes_nil : Memory.bytes [] = [] := rfl

@[simp] theorem bytes_unspecified : Memory.bytes Memory.unspecified = [] := rfl

@[simp] theorem length_unspecified : List.length Memory.unspecified = 0 := rfl

@[simp] theorem length_bytes (m : Memory) : (Memory.bytes m).length = m.length := by simp [Memory.bytes]

@[simp] theorem length_ofBytes (s : List Byte) : (Memory.ofBytes s).length = s.length := by
  rw [← length_bytes, bytes_ofBytes]

theorem addresses_ofBytesFrom (a : Nat) (s : List Byte) :
    (Memory.ofBytesFrom a s).map Prod.fst = List.range' a s.length := by
  induction s generalizing a with
  | nil => rfl
  | cons b rest ih => simp [Memory.ofBytesFrom, List.range'_succ, ih (a + 1)]

@[simp] theorem wf_ofBytes (s : List Byte) : Memory.wf (Memory.ofBytes s) = true := by
  rw [Memory.wf, length_ofBytes, Memory.ofBytes, addresses_ofBytesFrom]
  simp [List.range_eq_range']

@[simp] theorem wf_unspecified : Memory.wf Memory.unspecified = true := rfl

theorem ofBytesFrom_of_addresses (a : Nat) (m : Memory) (h : m.map Prod.fst = List.range' a m.length) :
    Memory.ofBytesFrom a (Memory.bytes m) = m := by
  induction m generalizing a with
  | nil => rfl
  | cons c rest ih =>
    simp only [List.map_cons, List.length_cons, List.range'_succ, List.cons.injEq] at h
    have ht : Memory.ofBytesFrom (a + 1) (Memory.bytes rest) = rest := ih (a + 1) h.2
    have hc : (a, c.2) = c := by rw [← h.1]
    change (a, c.2) :: Memory.ofBytesFrom (a + 1) (Memory.bytes rest) = c :: rest
    rw [ht, hc]

/-- A canonical buffer is the layout of its bytes: equal contents are equal data. -/
theorem ofBytes_bytes {m : Memory} (h : Memory.wf m = true) : Memory.ofBytes (Memory.bytes m) = m := by
  apply ofBytesFrom_of_addresses
  rw [Memory.wf, beq_iff_eq] at h
  rw [h, List.range_eq_range']

theorem lookup_ofBytesFrom (a i : Nat) (s : List Byte) :
    List.lookup (a + i) (Memory.ofBytesFrom a s) = s[i]? := by
  induction s generalizing a i with
  | nil => rfl
  | cons b rest ih =>
    cases i with
    | zero => simp [Memory.ofBytesFrom]
    | succ i =>
      have hne : (a + (i + 1) == a) = false := by simp
      simp only [Memory.ofBytesFrom, List.lookup_cons, hne, List.getElem?_cons_succ]
      rw [← ih (a + 1) i, show a + (i + 1) = a + 1 + i by omega]

/-- Reading one byte of a layout. -/
@[simp] theorem read_ofBytes (s : List Byte) (a : Nat) : Memory.read (Memory.ofBytes s) a = s[a]? := by
  simpa [Memory.read, Memory.ofBytes] using lookup_ofBytesFrom 0 a s

/-- Reading one byte of a canonical buffer. -/
theorem read_of_wf {m : Memory} (h : Memory.wf m = true) (a : Nat) : Memory.read m a = (Memory.bytes m)[a]? := by
  rw [← ofBytes_bytes h, read_ofBytes, bytes_ofBytes]

/-! ### The primitives -/

@[simp] theorem wf_memWrite (m : Memory) (a : Nat) (v : List Byte) : Memory.wf (memWrite m a v) = true := wf_ofBytes _

@[simp] theorem wf_consumeFront (m : Memory) (c : Nat) : Memory.wf (consumeFront m c) = true := wf_ofBytes _

@[simp] theorem wf_cut (m : Memory) (o l : Nat) : Memory.wf (cut m o l) = true := wf_ofBytes _

/-- Writing at the tail appends. -/
theorem memWrite_tail (m : Memory) (v : List Byte) :
    memWrite m m.length v = Memory.ofBytes (Memory.bytes m ++ v) := by
  have ht : (Memory.bytes m).take m.length = Memory.bytes m := by rw [← length_bytes, List.take_length]
  have hd : (Memory.bytes m).drop (m.length + v.length) = [] := by
    apply List.drop_eq_nil_of_le; simp
  rw [memWrite, ht, hd, List.append_nil]

/-- All that `append` can do (R55). -/
theorem appendBytes_cases (m : Memory) (cap : Nat) (v : List Byte) :
    (cap - m.length < v.length ∧ appendBytes m cap v = none) ∨
    (v.length ≤ cap - m.length ∧ appendBytes m cap v = some (Memory.ofBytes (Memory.bytes m ++ v))) := by
  unfold appendBytes
  split
  · exact .inl ⟨‹_›, rfl⟩
  · exact .inr ⟨by omega, by rw [memWrite_tail]⟩

/-- What `consume_front` leaves (R56). -/
@[simp] theorem bytes_consumeFront (m : Memory) (c : Nat) :
    Memory.bytes (consumeFront m c) = (Memory.bytes m).drop c := by
  rw [consumeFront, bytes_ofBytes, memRead, List.take_of_length_le]
  simp

theorem consumeFront_eq (m : Memory) (c : Nat) : consumeFront m c = Memory.ofBytes ((Memory.bytes m).drop c) := by
  rw [← bytes_consumeFront, ofBytes_bytes (wf_consumeFront m c)]

@[simp] theorem length_consumeFront (m : Memory) (c : Nat) : (consumeFront m c).length = m.length - c := by
  rw [← length_bytes, bytes_consumeFront, List.length_drop, length_bytes]

/-- What `cut` leaves (R57). -/
@[simp] theorem bytes_cut (m : Memory) (o l : Nat) :
    Memory.bytes (cut m o l) = (Memory.bytes m).take o ++ (Memory.bytes m).drop (o + l) := by
  have ht : ((Memory.bytes m).drop (o + l)).take (m.length - (o + l)) = (Memory.bytes m).drop (o + l) := by
    apply List.take_of_length_le; simp
  simp only [cut, bytes_ofBytes, memRead, List.drop_zero, ht]

theorem length_cut {m : Memory} {o l : Nat} (h : o + l ≤ m.length) : (cut m o l).length = m.length - l := by
  rw [← length_bytes, bytes_cut, List.length_append, List.length_take, List.length_drop, length_bytes]
  omega

/-- Cutting nothing out of a canonical buffer leaves it as it is (R57). -/
theorem cut_zero {m : Memory} (h : Memory.wf m = true) (o : Nat) : cut m o 0 = m := by
  rw [← ofBytes_bytes (wf_cut m o 0), bytes_cut, Nat.add_zero, List.take_append_drop, ofBytes_bytes h]

/-- The buffers after reset are canonical. -/
theorem reset_memory_wf :
    Memory.wf State.reset.rxBuf = true ∧ Memory.wf State.reset.rxPay = true ∧
    Memory.wf State.reset.txBuf = true ∧ Memory.wf State.reset.txOut = true := ⟨rfl, rfl, rfl, rfl⟩

end Sys2Proof.Machine
end

