-- ==== Sys2Proof/Laws/Codec.lean ====
section
/-! SUPPORT. The pure functions: one lemma for each shape of argument. -/

namespace Sys2Proof.Machine

/-! ### FCS -/

@[simp] theorem fcsFold_nil (acc : Word) : fcsFold acc [] = acc := rfl

@[simp] theorem fcsFold_cons (acc : Word) (b : Byte) (rest : List Byte) :
    fcsFold acc (b :: rest) = fcsFold (fcsUpdate acc b) rest := rfl

@[simp] theorem fcsFold_append (acc : Word) (s t : List Byte) :
    fcsFold acc (s ++ t) = fcsFold (fcsFold acc s) t := by simp [fcsFold]

/-! ### Stuffing -/

/-- The two forms of an escaped octet (R120). -/
theorem escapeOctet_cases (v : Byte) :
    (v = Config.flag ∨ v = Config.escape) ∧ escapeOctet v = [Config.escape, v ^^^ Config.escXor] ∨
    v ≠ Config.flag ∧ v ≠ Config.escape ∧ escapeOctet v = [v] := by
  unfold escapeOctet
  split
  · exact .inl ⟨‹_›, rfl⟩
  · next h => exact .inr ⟨fun e => h (.inl e), fun e => h (.inr e), rfl⟩

@[simp] theorem stuff_nil : stuff [] = [] := rfl

@[simp] theorem stuff_cons (v : Byte) (s : List Byte) : stuff (v :: s) = escapeOctet v ++ stuff s := rfl

@[simp] theorem stuff_append (s t : List Byte) : stuff (s ++ t) = stuff s ++ stuff t := by simp [stuff]

@[simp] theorem unescapeStep_pending (x : Byte) : unescapeStep true x = (false, some (x ^^^ Config.escXor)) := rfl

@[simp] theorem unescapeStep_marker : unescapeStep false Config.escape = (true, none) := rfl

theorem unescapeStep_plain {x : Byte} (h : x ≠ Config.escape) : unescapeStep false x = (false, some x) := by
  simp [unescapeStep, h]

@[simp] theorem unstuffFrom_nil (pending : Bool) : unstuffFrom pending [] = ([], pending) := rfl

theorem unstuffFrom_cons (pending : Bool) (x : Byte) (rest : List Byte) :
    unstuffFrom pending (x :: rest) =
      ((unescapeStep pending x).2.toList ++ (unstuffFrom (unescapeStep pending x).1 rest).1,
       (unstuffFrom (unescapeStep pending x).1 rest).2) := rfl

/-- Unstuffing runs over a concatenation one part after the other. -/
theorem unstuffFrom_append (pending : Bool) (r t : List Byte) :
    unstuffFrom pending (r ++ t) =
      ((unstuffFrom pending r).1 ++ (unstuffFrom (unstuffFrom pending r).2 t).1,
       (unstuffFrom (unstuffFrom pending r).2 t).2) := by
  induction r generalizing pending with
  | nil => simp
  | cons x rest ih => simp [unstuffFrom_cons, ih]

/-! ### Classifying -/

@[simp] theorem frameOfContent_nil : frameOfContent [] = none := rfl

@[simp] theorem frameOfContent_one (a : Byte) : frameOfContent [a] = none := rfl

@[simp] theorem frameOfContent_two (a c : Byte) (p : List Byte) :
    frameOfContent (a :: c :: p) = some (frameOf a c) := rfl

/-- What `classify` consumes and which frame it gives do not depend on validity (R147). -/
@[simp] theorem classify_consumed (e : Nat) (d : List Byte) (pending : Bool) (acc : Word) :
    (classify e d pending acc).consumed = e := by unfold classify; split <;> rfl

@[simp] theorem classify_frame (e : Nat) (d : List Byte) (pending : Bool) (acc : Word) :
    (classify e d pending acc).frame = frameOfContent d := by unfold classify; split <;> rfl

@[simp] theorem classify_valid (e : Nat) (d : List Byte) (pending : Bool) (acc : Word) :
    (classify e d pending acc).valid = frameValid d.length pending acc := by
  unfold classify; split <;> simp_all

@[simp] theorem classify_payload_length (e : Nat) (d : List Byte) (pending : Bool) (acc : Word) :
    (classify e d pending acc).payload.length = (classify e d pending acc).payloadLength := by
  unfold classify; split <;> simp; omega

@[simp] theorem noFrame_consumed (c : Nat) : (noFrame c).consumed = c := rfl
@[simp] theorem noFrame_frame (c : Nat) : (noFrame c).frame = none := rfl
@[simp] theorem noFrame_payload (c : Nat) : (noFrame c).payload = [] := rfl

/-- All `decodeFrame` can answer (R146, R147): no flag, more data needed, or a frame classified. -/
theorem decodeFrame_cases (input : List Byte) :
    (fromFirstFlag input = [] ∧ decodeFrame input = noFrame input.length) ∨
    (fromFirstFlag input ≠ [] ∧ (untilFlag (fromContent input)).length = (fromContent input).length ∧
      decodeFrame input = noFrame 0) ∨
    (fromFirstFlag input ≠ [] ∧ (untilFlag (fromContent input)).length ≠ (fromContent input).length ∧
      decodeFrame input =
        classify (input.length - (fromContent input).length + (untilFlag (fromContent input)).length)
          (unstuff (untilFlag (fromContent input))).1 (unstuff (untilFlag (fromContent input))).2
          (fcsFold Config.fcsInit (unstuff (untilFlag (fromContent input))).1)) := by
  unfold decodeFrame
  split
  · next h => exact .inl ⟨h, rfl⟩
  · next x rest h =>
    have hne : fromFirstFlag input ≠ [] := by rw [h]; simp
    by_cases hb : (untilFlag (fromContent input)).length = (fromContent input).length
    · exact .inr (.inl ⟨hne, hb, by simp [hb]⟩)
    · exact .inr (.inr ⟨hne, hb, by simp [hb]⟩)

end Sys2Proof.Machine
end

