-- ==== Sys2Proof/Laws/LinkHost.lean ====
section
/-! SUPPORT. The host's link protocol: how a frame for a session reaches the reaction it gets. -/

namespace Sys2Proof.Machine

@[simp] theorem disconnect_initialized (ss : Session) : ss.disconnect.initialized = false := rfl
@[simp] theorem disconnect_sequenceNumber (ss : Session) : ss.disconnect.sequenceNumber = 0 := rfl
@[simp] theorem disconnect_role (ss : Session) : ss.disconnect.role = ss.role := rfl
@[simp] theorem disconnect_peerAddress (ss : Session) : ss.disconnect.peerAddress = ss.peerAddress := rfl
@[simp] theorem disconnect_configuredAddress (ss : Session) :
    ss.disconnect.configuredAddress = ss.configuredAddress := rfl
@[simp] theorem disconnect_mode (ss : Session) : ss.disconnect.mode = ss.mode := rfl

@[simp] theorem isUnnumbered_information (u : BitVec 5) (nr : BitVec 3) (pf : BitVec 1) (ns : BitVec 3) :
    isUnnumbered u (.information nr pf ns) = false := rfl
@[simp] theorem isUnnumbered_supervisory (u : BitVec 5) (nr : BitVec 3) (pf : BitVec 1) (stype : BitVec 2) :
    isUnnumbered u (.supervisory nr pf stype) = false := rfl
@[simp] theorem isUnnumbered_unnumbered (u : BitVec 5) (pf : BitVec 1) (utype : BitVec 5) :
    isUnnumbered u (.unnumbered pf utype) = true ↔ utype = u := beq_iff_eq

/-- A frame is for a session when its address is the peer's (master) or the session's own (slave) (R234). -/
theorem addressed_iff (ss : Session) (f : Frame) :
    ss.addressed f = true ↔
      (ss.role = .master → f.address = ss.peerAddress) ∧ (ss.role = .slave → f.address = ss.configuredAddress) := by
  unfold Session.addressed
  cases h : ss.role <;> simp

/-- A frame for another address has no effect (R234). -/
theorem onFrame_not_addressed (ch : HostChoices) {ss : Session} {f : Frame} (h : ss.addressed f = false) (v : Bool)
    (payload : List Byte) : ss.onFrame ch f v payload = ss.ignore := by
  simp [Session.onFrame, h]

/-- A frame for a connected session that is no handshake frame is treated as R230 to R232 say, in either role. -/
theorem onFrame_connected (ch : HostChoices) {ss : Session} {f : Frame} (hi : ss.initialized = true)
    (ha : ss.addressed f = true) (hc : ∀ u, isUnnumbered u f.control = false) (v : Bool) (payload : List Byte) :
    ss.onFrame ch f v payload = ss.onConnected ch f.control v payload := by
  unfold Session.onFrame
  cases h : ss.role <;> simp [ha, hi, hc, Session.onMasterFrame, Session.onSlaveFrame]

end Sys2Proof.Machine
end

