-- ==== Sys2Proof/Laws/Operands.lean ====
section
/-! SUPPORT. The operand bounds: when a bounded operation runs, and that the bounds are those of `wellFormed`. -/

namespace Sys2Proof.Machine

@[simp] theorem bounded_false (why : Refusal) (run : Host.Outcome State Fault Refusal) :
    bounded false why run = run := rfl

@[simp] theorem bounded_true (why : Refusal) (run : Host.Outcome State Fault Refusal) :
    bounded true why run = .refused why := rfl

/-- A bounded operation that answers a next state was within its bound. -/
theorem bounded_next {outside : Bool} {why : Refusal} {run : Host.Outcome State Fault Refusal} {t : State}
    (h : bounded outside why run = .next t) : outside = false ∧ run = .next t := by
  cases outside with
  | false => exact ⟨rfl, h⟩
  | true => cases h

theorem payloadAbove_eq_false (p : Params) (payload : List Byte) :
    payloadAbove p payload = false ↔ payload.length ≤ p.txCap := by simp [payloadAbove]

theorem inputAbove_eq_false (p : Params) (input : List Byte) :
    inputAbove p input = false ↔ input.length ≤ p.rxCap := by simp [inputAbove]

theorem priorityAbove_eq_false (p : Params) (priority : Nat) :
    priorityAbove p priority = false ↔ priority < 2 ^ p.prioW := by simp [priorityAbove]

theorem elapsedAbove_eq_not_timeFits (p : Params) (elapsedMs : Nat) :
    elapsedAbove p elapsedMs = !p.timeFits elapsedMs := by
  unfold elapsedAbove Params.timeFits
  cases p.timeW with
  | none => rfl
  | some w => rw [Bool.eq_iff_iff]; simp

theorem elapsedAbove_eq_false (p : Params) (elapsedMs : Nat) :
    elapsedAbove p elapsedMs = false ↔ p.timeFits elapsedMs = true := by
  simp [elapsedAbove_eq_not_timeFits]

end Sys2Proof.Machine
end

