-- ==== Sys2Proof/Laws/PerInstr.lean ====
section
/-! SUPPORT. Statements made per instruction. Family RowBits: what the encoder writes has the fixed bits of the
instruction's own row of spec/opcode_table.json (spec/30_encoding.md R89: `match` and `mask`). -/

namespace Sys2Proof.Laws

/-- The word of an encoded instruction, as its format numbers the bits: 8 bits, or 16 for an escape sequence. -/
def rowWord (i : Instr) : BitVec 16 :=
  match encode i with
  | .command code _ => code.setWidth 16
  | .controlVariant c => c.setWidth 16
  | .controlType c => c.setWidth 16
  | .octet x => x.setWidth 16
  | .escapePair x y => x ++ y

/-- `mask` and `match` of each row of spec/opcode_table.json. -/
def rowFixed : Instr → BitVec 16 × BitVec 16
  | .fcsInit => (0xFF, 0x00)
  | .fcsUpdate _ => (0xFF, 0x01)
  | .fcsRead => (0xFF, 0x02)
  | .fcsFinal => (0xFF, 0x03)
  | .fcsCheck => (0xFF, 0x04)
  | .escByte _ => (0xFF, 0x08)
  | .encode _ _ => (0xFF, 0x09)
  | .decode _ => (0xFF, 0x0A)
  | .rxWrite _ => (0xFF, 0x10)
  | .rxReadFrame => (0xFF, 0x11)
  | .rxReset => (0xFF, 0x12)
  | .rxStatus => (0xFF, 0x13)
  | .txWriteFrame _ _ _ _ => (0xFF, 0x18)
  | .txRead _ => (0xFF, 0x19)
  | .txRemove _ _ => (0xFF, 0x1A)
  | .txReset => (0xFF, 0x1B)
  | .txStatus => (0xFF, 0x1C)
  | .ctrlInformation _ _ _ => (0x01, 0x00)
  | .ctrlSupervisory _ _ _ => (0x03, 0x01)
  | .ctrlUnnumbered _ _ => (0x03, 0x03)
  | .ctrlReceiveReady _ _ => (0x0F, 0x01)
  | .ctrlReject _ _ => (0x0F, 0x05)
  | .ctrlReceiveNotReady _ _ => (0x0F, 0x09)
  | .ctrlSelectiveReject _ _ => (0x0F, 0x0D)
  | .ctrlModeSet _ => (0xEF, 0x43)
  | .ctrlAcknowledge _ => (0xEF, 0x63)
  | .flag => (0xFF, 0x7E)
  | .escape => (0xFF, 0x7D)
  | .escFlag => (0xFFFF, 0x7D5E)
  | .escEscape => (0xFFFF, 0x7D5D)

/-- The encoded word agrees with its row on the row's fixed bits. -/
def RowBits.Statement (i : Instr) : Prop := rowWord i &&& (rowFixed i).1 = (rowFixed i).2

theorem RowBits.fcsInit : RowBits.Statement .fcsInit := by
  simp only [RowBits.Statement, rowWord, rowFixed, Sys2Proof.encode]; decide

theorem RowBits.fcsUpdate (x0 : Byte) : RowBits.Statement (.fcsUpdate x0) := by
  simp only [RowBits.Statement, rowWord, rowFixed, Sys2Proof.encode]; decide

theorem RowBits.fcsRead : RowBits.Statement .fcsRead := by
  simp only [RowBits.Statement, rowWord, rowFixed, Sys2Proof.encode]; decide

theorem RowBits.fcsFinal : RowBits.Statement .fcsFinal := by
  simp only [RowBits.Statement, rowWord, rowFixed, Sys2Proof.encode]; decide

theorem RowBits.fcsCheck : RowBits.Statement .fcsCheck := by
  simp only [RowBits.Statement, rowWord, rowFixed, Sys2Proof.encode]; decide

theorem RowBits.escByte (x0 : Byte) : RowBits.Statement (.escByte x0) := by
  simp only [RowBits.Statement, rowWord, rowFixed, Sys2Proof.encode]; decide

theorem RowBits.encode (x0 : Frame) (x1 : List Byte) : RowBits.Statement (.encode x0 x1) := by
  simp only [RowBits.Statement, rowWord, rowFixed, Sys2Proof.encode]; decide

theorem RowBits.decode (x0 : List Byte) : RowBits.Statement (.decode x0) := by
  simp only [RowBits.Statement, rowWord, rowFixed, Sys2Proof.encode]; decide

theorem RowBits.rxWrite (x0 : List Byte) : RowBits.Statement (.rxWrite x0) := by
  simp only [RowBits.Statement, rowWord, rowFixed, Sys2Proof.encode]; decide

theorem RowBits.rxReadFrame : RowBits.Statement .rxReadFrame := by
  simp only [RowBits.Statement, rowWord, rowFixed, Sys2Proof.encode]; decide

theorem RowBits.rxReset : RowBits.Statement .rxReset := by
  simp only [RowBits.Statement, rowWord, rowFixed, Sys2Proof.encode]; decide

theorem RowBits.rxStatus : RowBits.Statement .rxStatus := by
  simp only [RowBits.Statement, rowWord, rowFixed, Sys2Proof.encode]; decide

theorem RowBits.txWriteFrame (x0 : Frame) (x1 : List Byte) (x2 : Nat) (x3 : Bool) : RowBits.Statement (.txWriteFrame x0 x1 x2 x3) := by
  simp only [RowBits.Statement, rowWord, rowFixed, Sys2Proof.encode]; decide

theorem RowBits.txRead (x0 : Nat) : RowBits.Statement (.txRead x0) := by
  simp only [RowBits.Statement, rowWord, rowFixed, Sys2Proof.encode]; decide

theorem RowBits.txRemove (x0 : Kind) (x1 : BitVec 5) : RowBits.Statement (.txRemove x0 x1) := by
  simp only [RowBits.Statement, rowWord, rowFixed, Sys2Proof.encode]; decide

theorem RowBits.txReset : RowBits.Statement .txReset := by
  simp only [RowBits.Statement, rowWord, rowFixed, Sys2Proof.encode]; decide

theorem RowBits.txStatus : RowBits.Statement .txStatus := by
  simp only [RowBits.Statement, rowWord, rowFixed, Sys2Proof.encode]; decide

theorem RowBits.ctrlInformation (x0 : BitVec 3) (x1 : BitVec 1) (x2 : BitVec 3) : RowBits.Statement (.ctrlInformation x0 x1 x2) := by
  simp only [RowBits.Statement, rowWord, rowFixed, Sys2Proof.encode]
  revert x0 x1 x2
  decide

theorem RowBits.ctrlSupervisory (x0 : BitVec 3) (x1 : BitVec 1) (x2 : BitVec 2) : RowBits.Statement (.ctrlSupervisory x0 x1 x2) := by
  simp only [RowBits.Statement, rowWord, rowFixed, Sys2Proof.encode]
  revert x0 x1 x2
  decide

theorem RowBits.ctrlUnnumbered (x0 : BitVec 1) (x1 : BitVec 5) : RowBits.Statement (.ctrlUnnumbered x0 x1) := by
  simp only [RowBits.Statement, rowWord, rowFixed, Sys2Proof.encode]
  revert x0 x1
  decide

theorem RowBits.ctrlReceiveReady (x0 : BitVec 3) (x1 : BitVec 1) : RowBits.Statement (.ctrlReceiveReady x0 x1) := by
  simp only [RowBits.Statement, rowWord, rowFixed, Sys2Proof.encode]
  revert x0 x1
  decide

theorem RowBits.ctrlReject (x0 : BitVec 3) (x1 : BitVec 1) : RowBits.Statement (.ctrlReject x0 x1) := by
  simp only [RowBits.Statement, rowWord, rowFixed, Sys2Proof.encode]
  revert x0 x1
  decide

theorem RowBits.ctrlReceiveNotReady (x0 : BitVec 3) (x1 : BitVec 1) : RowBits.Statement (.ctrlReceiveNotReady x0 x1) := by
  simp only [RowBits.Statement, rowWord, rowFixed, Sys2Proof.encode]
  revert x0 x1
  decide

theorem RowBits.ctrlSelectiveReject (x0 : BitVec 3) (x1 : BitVec 1) : RowBits.Statement (.ctrlSelectiveReject x0 x1) := by
  simp only [RowBits.Statement, rowWord, rowFixed, Sys2Proof.encode]
  revert x0 x1
  decide

theorem RowBits.ctrlModeSet (x0 : BitVec 1) : RowBits.Statement (.ctrlModeSet x0) := by
  simp only [RowBits.Statement, rowWord, rowFixed, Sys2Proof.encode]
  revert x0
  decide

theorem RowBits.ctrlAcknowledge (x0 : BitVec 1) : RowBits.Statement (.ctrlAcknowledge x0) := by
  simp only [RowBits.Statement, rowWord, rowFixed, Sys2Proof.encode]
  revert x0
  decide

theorem RowBits.flag : RowBits.Statement .flag := by
  simp only [RowBits.Statement, rowWord, rowFixed, Sys2Proof.encode]; decide

theorem RowBits.escape : RowBits.Statement .escape := by
  simp only [RowBits.Statement, rowWord, rowFixed, Sys2Proof.encode]; decide

theorem RowBits.escFlag : RowBits.Statement .escFlag := by
  simp only [RowBits.Statement, rowWord, rowFixed, Sys2Proof.encode]; decide

theorem RowBits.escEscape : RowBits.Statement .escEscape := by
  simp only [RowBits.Statement, rowWord, rowFixed, Sys2Proof.encode]; decide

end Sys2Proof.Laws
end

