-- ==== Sys2Proof/Laws/Receiver.lean ====
section
/-! SUPPORT. The Receiver: all that `RX_WRITE` and the loop of `RX_READ_FRAME` can do. -/

namespace Sys2Proof.Machine

/-- All `RX_WRITE` can do (R161). -/
theorem execRxWrite_cases (bytes : List Byte) (s : State) :
    (s.params.rxCap - s.rxLen < bytes.length ∧
      execRxWrite bytes s = .next { s with response := .error .rxCapacity }) ∨
    (bytes.length ≤ s.params.rxCap - s.rxLen ∧
      execRxWrite bytes s =
        .next { s with rxBuf := Memory.ofBytes (Memory.bytes s.rxBuf ++ bytes), response := .done }) := by
  unfold execRxWrite
  obtain ⟨h, e⟩ | ⟨h, e⟩ := appendBytes_cases s.rxBuf s.params.rxCap bytes
  · exact .inl ⟨h, by rw [e]; rfl⟩
  · exact .inr ⟨h, by rw [e]; rfl⟩

/-- One pass of the loop leaves the held bytes less those consumed (R162, R56). -/
theorem readPass_bytes (m : Memory) :
    Memory.bytes (readPass m).2 = (Memory.bytes m).drop (decodeFrame (Memory.bytes m)).consumed := by
  unfold readPass
  simp only
  split
  · exact bytes_consumeFront _ _
  · next h =>
    have h0 : (decodeFrame (Memory.bytes m)).consumed = 0 := by omega
    rw [h0, List.drop_zero]

@[simp] theorem readPass_result (m : Memory) : (readPass m).1 = decodeFrame (Memory.bytes m) := rfl

/-- One pass keeps the canonical form. -/
theorem readPass_wf {m : Memory} (h : Memory.wf m = true) : Memory.wf (readPass m).2 = true := by
  unfold readPass
  simp only
  split
  · exact wf_consumeFront _ _
  · exact h

/-- The loop keeps the canonical form. -/
theorem readLoop_wf (fuel : Nat) {m : Memory} (h : Memory.wf m = true) : Memory.wf (readLoop fuel m).2 = true := by
  induction fuel generalizing m with
  | zero => exact h
  | succ fuel ih =>
    unfold readLoop
    simp only
    split
    · exact readPass_wf h
    · split
      · exact readPass_wf h
      · exact ih (readPass_wf h)

/-- All `RX_READ_FRAME` can do: it always completes, and writes `RX_BUF`, `RX_PAY` and the response. -/
theorem execRxReadFrame_cases (s : State) :
    (∃ r m, readLoop (s.rxLen + 1) s.rxBuf = (some r, m) ∧
      execRxReadFrame s =
        .next { s with rxBuf := m, rxPay := Memory.ofBytes r.payload,
                       response := .frameRead r.payloadLength r.frame r.valid }) ∨
    (∃ m, readLoop (s.rxLen + 1) s.rxBuf = (none, m) ∧
      execRxReadFrame s =
        .next { s with rxBuf := m, rxPay := Memory.unspecified, response := .frameRead 0 none false }) := by
  unfold execRxReadFrame
  split
  · next r m h => exact .inl ⟨r, m, h, rfl⟩
  · next m h => exact .inr ⟨m, h, rfl⟩

end Sys2Proof.Machine
end

