-- ==== Sys2Proof/Laws/Runs.lean ====
section
/-! SUPPORT. Runs of operations and their observations: one operation at a time, and one run after another. -/

namespace Sys2Proof

open Machine

@[simp] theorem runOps_nil (s : State) : runOps [] s = some (s, []) := rfl

/-- A run that completes its first operation is that operation's observation and the run from the state it leaves. -/
theorem runOps_cons_next {i : Instr} {s t : State} (h : exec i s = .next t) (rest : List Instr) :
    runOps (i :: rest) s = (runOps rest t).map fun r => (r.1, observe t :: r.2) := by
  cases hr : runOps rest t <;> simp [runOps, h, hr]

/-- All a run of one operation or more can do, when it has a state after it. -/
theorem runOps_cons_some {i : Instr} {rest : List Instr} {s u : State} {os : List Observed}
    (h : runOps (i :: rest) s = some (u, os)) :
    ∃ t os', exec i s = .next t ∧ runOps rest t = some (u, os') ∧ os = observe t :: os' := by
  cases he : exec i s with
  | next t =>
    rw [runOps_cons_next he] at h
    cases hr : runOps rest t with
    | none => simp [hr] at h
    | some r =>
      rw [hr] at h
      cases h
      exact ⟨t, r.2, rfl, hr, rfl⟩
  | fault f => cases f
  | refused r => rw [runOps, he] at h; cases h

/-- One run after another. -/
theorem runOps_append {xs ys : List Instr} {s t : State} {os : List Observed} (h : runOps xs s = some (t, os)) :
    runOps (xs ++ ys) s = (runOps ys t).map fun r => (r.1, os ++ r.2) := by
  induction xs generalizing s os with
  | nil =>
    simp only [runOps_nil, Option.some.injEq, Prod.mk.injEq] at h
    obtain ⟨rfl, rfl⟩ := h
    simp
  | cons i rest ih =>
    obtain ⟨u, os', he, hr, rfl⟩ := runOps_cons_some h
    rw [List.cons_append, runOps_cons_next he, ih hr, Option.map_map]
    rfl

@[simp] theorem observe_result (t : State) : (observe t).result = t.response := rfl

@[simp] theorem observe_bytes (t : State) : (observe t).bytes = resultBytes t := rfl

/-- What a transmission returns (R34, R85). -/
theorem resultBytes_sent {t : State} {n : Nat} (h : t.response = .sent n) : resultBytes t = memRead t.txOut 0 n := by
  simp [resultBytes, h]

/-- What a returned frame's payload is (R35, R85). -/
theorem resultBytes_frameRead {t : State} {p : Nat} {f : Option Frame} {v : Bool}
    (h : t.response = .frameRead p f v) : resultBytes t = memRead t.rxPay 0 p := by
  simp [resultBytes, h]

@[simp] theorem transmissions_nil : transmissions [] = 0 := rfl

@[simp] theorem transmissions_append (xs ys : List Observed) :
    transmissions (xs ++ ys) = transmissions xs + transmissions ys := by simp [transmissions]

/-- A result of 0 is no transmission. -/
@[simp] theorem transmissions_zero (bytes : List Byte) (os : List Observed) :
    transmissions (⟨.sent 0, bytes⟩ :: os) = transmissions os := by simp [transmissions]

/-- A result above 0 is one. -/
theorem transmissions_sent {n : Nat} (h : 0 < n) (bytes : List Byte) (os : List Observed) :
    transmissions (⟨.sent n, bytes⟩ :: os) = transmissions os + 1 := by simp [transmissions, h]

end Sys2Proof
end

