-- ==== Sys2Proof/Laws/Sender.lean ====
section
/-! SUPPORT. The Sender: all that inserting an item, serving the head and each operation can do. -/

namespace Sys2Proof.Machine

/-- Insertion adds the item and loses none (R182). -/
theorem insertItem_perm (q : List Item) (it : Item) : (insertItem q it).Perm (it :: q) := by
  unfold insertItem
  have h := List.perm_middle (a := it) (l₁ := q.takeWhile (fun t => decide (it.prio ≤ t.prio)))
    (l₂ := q.dropWhile (fun t => decide (it.prio ≤ t.prio)))
  rwa [List.takeWhile_append_dropWhile] at h

@[simp] theorem length_insertItem (q : List Item) (it : Item) : (insertItem q it).length = q.length + 1 := by
  simpa using (insertItem_perm q it).length_eq

theorem mem_insertItem {q : List Item} {it t : Item} : t ∈ insertItem q it ↔ t = it ∨ t ∈ q := by
  simpa using (insertItem_perm q it).mem_iff (a := t)

/-- All `TX_WRITE_FRAME` can do with a priority that fits (R184). -/
theorem execTxWriteFrame_cases (frame : Frame) (payload : List Byte) (priority : Nat) (retryable : Bool) (s : State)
    (hp : priority < 2 ^ s.params.prioW) :
    ((s.params.txCap - s.txLen < payload.length ∨ queueFull s.params s.txq = true) ∧
      execTxWriteFrame frame payload priority retryable s = .next { s with response := .error .txCapacity }) ∨
    (payload.length ≤ s.params.txCap - s.txLen ∧ queueFull s.params s.txq = false ∧
      execTxWriteFrame frame payload priority retryable s =
        .next { s with txBuf := Memory.ofBytes (Memory.bytes s.txBuf ++ payload),
                       txq := insertItem s.txq (Item.fresh s.txLen frame payload priority retryable),
                       response := .done }) := by
  unfold execTxWriteFrame
  rw [(priorityAbove_eq_false s.params priority).2 hp, bounded_false]
  obtain ⟨h, e⟩ | ⟨h, e⟩ := appendBytes_cases s.txBuf s.params.txCap payload
  · exact .inl ⟨.inl h, by rw [e]; rfl⟩
  · rw [e]
    cases hf : queueFull s.params s.txq with
    | true => exact .inl ⟨.inr rfl, rfl⟩
    | false => exact .inr ⟨h, rfl, rfl⟩

/-- Transmitting the head: kept when retryable, removed otherwise (R189). -/
theorem transmitHead_cases (h : Item) (rest : List Item) (s : State) (hq : s.txq = h :: rest) :
    (h.retryable = true ∧
      transmitHead h s =
        .next { s with txOut := Memory.ofBytes (itemBytes s h), response := .sent (itemBytes s h).length }) ∨
    (h.retryable = false ∧
      transmitHead h s =
        .next { s with txBuf := cut s.txBuf h.off h.len, txq := rest.map (Item.afterRemoval h),
                       txOut := Memory.ofBytes (itemBytes s h), response := .sent (itemBytes s h).length }) := by
  unfold transmitHead
  cases hr : h.retryable with
  | true => exact .inl ⟨rfl, by simp⟩
  | false =>
    refine .inr ⟨rfl, ?_⟩
    have hrm := removeItem_head (s := { s with txOut := Memory.ofBytes (itemBytes s h) }) hq
    simp only [Bool.false_eq_true, if_false, hrm, complete_eq]

/-- Serving the head: exhausted and removed with an error (R188), or transmitted (R189). -/
theorem serveHead_cases (h : Item) (rest : List Item) (s : State) :
    (s.params.writeRetries + 1 < h.attempts ∧
      serveHead h rest s =
        .next { s with txBuf := cut s.txBuf h.off h.len, txq := rest.map (Item.afterRemoval h),
                       txOut := Memory.unspecified, response := .error .txTimeout }) ∨
    (h.attempts ≤ s.params.writeRetries + 1 ∧ h.retryable = true ∧
      serveHead h rest s =
        .next { s with txq := h :: rest, txOut := Memory.ofBytes (itemBytes s h),
                       response := .sent (itemBytes s h).length }) ∨
    (h.attempts ≤ s.params.writeRetries + 1 ∧ h.retryable = false ∧
      serveHead h rest s =
        .next { s with txBuf := cut s.txBuf h.off h.len, txq := rest.map (Item.afterRemoval h),
                       txOut := Memory.ofBytes (itemBytes s h), response := .sent (itemBytes s h).length }) := by
  by_cases hx : s.params.writeRetries + 1 < h.attempts
  · refine .inl ⟨hx, ?_⟩
    have hrm := removeItem_head (s := { s with txq := h :: rest, txOut := Memory.unspecified }) rfl
    simp only [serveHead, attemptsExhausted, hx, decide_true, if_true, hrm, raise_eq]
  · have hs : serveHead h rest s = transmitHead h { s with txq := h :: rest } := by
      simp [serveHead, attemptsExhausted, hx]
    obtain ⟨hr, e⟩ | ⟨hr, e⟩ := transmitHead_cases h rest { s with txq := h :: rest } rfl
    · exact .inr (.inl ⟨by omega, hr, by rw [hs, e]; rfl⟩)
    · exact .inr (.inr ⟨by omega, hr, by rw [hs, e]; rfl⟩)

/-- All `TX_READ` can do with an `elapsed_ms` that fits (R185): empty queue, first transmission, due, or waiting. -/
theorem execTxRead_cases (elapsedMs : Nat) (s : State) (ht : s.params.timeFits elapsedMs = true) :
    (s.txq = [] ∧
      execTxRead elapsedMs s = .next { s with txOut := Memory.unspecified, response := .sent 0 }) ∨
    (∃ h rest, s.txq = h :: rest ∧ h.attempts = 0 ∧
      execTxRead elapsedMs s = serveHead { h with attempts := 1 } rest s) ∨
    (∃ h rest, s.txq = h :: rest ∧ h.attempts ≠ 0 ∧ s.params.writeTimeoutMs ≤ h.ageMs + elapsedMs ∧
      execTxRead elapsedMs s = serveHead { h with ageMs := 0, attempts := h.attempts + 1 } rest s) ∨
    (∃ h rest, s.txq = h :: rest ∧ h.attempts ≠ 0 ∧ h.ageMs + elapsedMs < s.params.writeTimeoutMs ∧
      execTxRead elapsedMs s =
        .next { s with txq := { h with ageMs := h.ageMs + elapsedMs } :: rest, txOut := Memory.unspecified,
                       response := .sent 0 }) := by
  unfold execTxRead
  rw [(elapsedAbove_eq_false s.params elapsedMs).2 ht, bounded_false]
  cases hq : s.txq with
  | nil => exact .inl ⟨rfl, rfl⟩
  | cons h rest =>
    by_cases ha : h.attempts = 0
    · exact .inr (.inl ⟨h, rest, rfl, ha, by simp [ha]⟩)
    · by_cases hd : s.params.writeTimeoutMs ≤ h.ageMs + elapsedMs
      · exact .inr (.inr (.inl ⟨h, rest, rfl, ha, hd, by simp [ha, ageDue, hd]⟩))
      · exact .inr (.inr (.inr ⟨h, rest, rfl, ha, by omega, by simp [ha, ageDue, hd]⟩))

/-- All `TX_REMOVE` can do (R190). -/
theorem execTxRemove_cases (kind : Kind) (key : BitVec 5) (s : State) :
    (∃ j, firstMatch kind key s.txq = some j ∧
      execTxRemove kind key s = .next { removeItem j s with response := .removed true }) ∨
    (firstMatch kind key s.txq = none ∧
      execTxRemove kind key s = .next { s with response := .removed false }) := by
  unfold execTxRemove
  cases h : firstMatch kind key s.txq with
  | none => exact .inr ⟨rfl, rfl⟩
  | some j => exact .inl ⟨j, rfl, rfl⟩

end Sys2Proof.Machine
end

