-- ==== Sys2Proof/Laws/Step.lean ====
section
/-! SUPPORT. All a step can do. -/

namespace Sys2Proof.Machine

/-- The four ways a step goes: the instance is illegal, the host has issued nothing, what it issued is no instruction,
or what it decoded to is run on the state without it. -/
theorem step_cases (s : State) :
    (s.params.legal = false ∧ step s = .refused .illegalInstance) ∨
    (s.params.legal = true ∧ s.host = [] ∧ step s = .next s) ∨
    (∃ issue rest reason, s.params.legal = true ∧ s.host = issue :: rest ∧ decodeIssue issue = .error reason ∧
      step s = .refused (.undecodable reason)) ∨
    (∃ issue rest d, s.params.legal = true ∧ s.host = issue :: rest ∧ decodeIssue issue = .ok d ∧
      step s = runDecoded d { s with host := rest }) := by
  unfold step
  cases hl : s.params.legal with
  | false => exact .inl ⟨rfl, rfl⟩
  | true =>
    cases hh : s.host with
    | nil => exact .inr (.inl ⟨rfl, rfl, by simp [fetch, hh]⟩)
    | cons issue rest =>
      cases hd : decodeIssue issue with
      | error reason => exact .inr (.inr (.inl ⟨issue, rest, reason, rfl, rfl, hd, by simp [fetch, hh, hd]⟩))
      | ok d => exact .inr (.inr (.inr ⟨issue, rest, d, rfl, rfl, hd, by simp [fetch, hh, hd]⟩))

/-- The free instance of reset meets the constraints (D20), whatever the open parameters are. -/
theorem reset_params_legal : State.reset.params.legal = true := by decide

end Sys2Proof.Machine
end

