-- ==== Sys2Proof/Laws/Wire.lean ====
section
/-! SUPPORT. What a raw octet means (R88), the byte-serial parser, and the wire rows: they write the response and nothing
else. -/

namespace Sys2Proof.Machine

/-! ### The wire rows -/

/-- All a row of raw octets can do. -/
@[simp] theorem takeRawOctets_eq (xs : List Byte) (s : State) :
    takeRawOctets xs s = .next { s with response := .read (readings xs) none } := rfl

/-- All a control row can do. -/
@[simp] theorem readControl_eq (c : Control) (s : State) :
    readControl c s = .next { s with response := .read (readings (controlOctets c)) (some c) } := rfl

/-! ### The table of R88 -/

@[simp] theorem readings_hunt (xs : List Byte) : (readings xs).hunt = readOctets .hunt xs := rfl
@[simp] theorem readings_opening (xs : List Byte) : (readings xs).opening = readOctets .opening xs := rfl
@[simp] theorem readings_content (xs : List Byte) : (readings xs).content = readOctets .content xs := rfl
@[simp] theorem readings_pending (xs : List Byte) : (readings xs).pending = readOctets .pending xs := rfl

@[simp] theorem readOctets_nil (p : Place) :
    readOctets p [] = { after := p, decoded := [], frameEnds := [] } := rfl

@[simp] theorem readOctets_cons (p : Place) (x : Byte) (rest : List Byte) :
    readOctets p (x :: rest) =
      { after := (readOctets (readOctet p x).after rest).after,
        decoded := (readOctet p x).decoded ++ (readOctets (readOctet p x).after rest).decoded,
        frameEnds := (readOctet p x).frameEnds ++ (readOctets (readOctet p x).after rest).frameEnds } := rfl

/-- Reading runs over a concatenation one part after the other. -/
theorem readOctets_append (p : Place) (xs ys : List Byte) :
    readOctets p (xs ++ ys) =
      { after := (readOctets (readOctets p xs).after ys).after,
        decoded := (readOctets p xs).decoded ++ (readOctets (readOctets p xs).after ys).decoded,
        frameEnds := (readOctets p xs).frameEnds ++ (readOctets (readOctets p xs).after ys).frameEnds } := by
  induction xs generalizing p with
  | nil => simp
  | cons x rest ih => simp [ih, List.append_assoc]

/-- In content, a control byte's octets decode to exactly that control byte (R72, R123). -/
theorem readOctets_escapeOctet (v : Byte) :
    readOctets .content (escapeOctet v) = { after := .content, decoded := [v], frameEnds := [] } := by
  revert v; decide

/-! ### Where the parser stands -/

theorem place_hunt {sc : Scan} (h : sc.phase = .hunt) : sc.place = .hunt := by simp [Scan.place, h]
theorem place_opening {sc : Scan} (h : sc.phase = .opening) : sc.place = .opening := by simp [Scan.place, h]
theorem place_content {sc : Scan} (h : sc.phase = .content) (hp : sc.pending = false) : sc.place = .content := by
  simp [Scan.place, h, hp]
theorem place_pending {sc : Scan} (h : sc.phase = .content) (hp : sc.pending = true) : sc.place = .pending := by
  simp [Scan.place, h, hp]

/-! ### Raw octets read one after another -/

@[simp] theorem scan_octets_nil (sc : Scan) : sc.octets [] = (sc, []) := rfl

@[simp] theorem scan_octets_cons (sc : Scan) (x : Byte) (rest : List Byte) :
    sc.octets (x :: rest) =
      (((sc.octet x).1.octets rest).1, (sc.octet x).2.toList ++ ((sc.octet x).1.octets rest).2) := rfl

theorem scan_octets_append (sc : Scan) (xs ys : List Byte) :
    sc.octets (xs ++ ys) = (((sc.octets xs).1.octets ys).1, (sc.octets xs).2 ++ ((sc.octets xs).1.octets ys).2) := by
  induction xs generalizing sc with
  | nil => rfl
  | cons x rest ih => simp [ih, List.append_assoc]

/-! ### The parser's own steps -/

@[simp] theorem scan_data_phase (sc : Scan) (y : Byte) : (sc.data y).phase = sc.phase := rfl
@[simp] theorem scan_data_index (sc : Scan) (y : Byte) : (sc.data y).index = sc.index := rfl
@[simp] theorem scan_data_pending (sc : Scan) (y : Byte) : (sc.data y).pending = sc.pending := rfl
@[simp] theorem scan_data_acc (sc : Scan) (y : Byte) : (sc.data y).acc = fcsUpdate sc.acc y := rfl
@[simp] theorem scan_data_decoded (sc : Scan) (y : Byte) : (sc.data y).decoded = sc.decoded ++ [y] := rfl

/-- `take` by the two flags of R123. -/
theorem scan_take_pending {sc : Scan} (h : sc.pending = true) (x : Byte) :
    sc.take x = ({ sc with pending := false }).data (x ^^^ Config.escXor) := by
  simp [Scan.take, h]

theorem scan_take_marker {sc : Scan} (h : sc.pending = false) : sc.take Config.escape = { sc with pending := true } := by
  simp [Scan.take, h]

theorem scan_take_plain {sc : Scan} {x : Byte} (h : sc.pending = false) (hx : x ≠ Config.escape) :
    sc.take x = sc.data x := by
  simp [Scan.take, h, unescapeStep_plain hx, Scan.data]

/-- `take` changes neither the phase nor the index. -/
@[simp] theorem scan_take_phase (sc : Scan) (x : Byte) : (sc.take x).phase = sc.phase := by
  unfold Scan.take; split <;> rfl

@[simp] theorem scan_take_index (sc : Scan) (x : Byte) : (sc.take x).index = sc.index := by
  unfold Scan.take; split <;> rfl

/-! ### One octet, by the parser's state (R88) -/

theorem scan_octet_hunt {sc : Scan} (h : sc.phase = .hunt) {x : Byte} (hx : x ≠ Config.flag) :
    sc.octet x = ({ sc with index := sc.index + 1 }, none) := by
  simp [Scan.octet, h, hx, Scan.advance]

theorem scan_octet_opening {sc : Scan} (h : sc.phase = .opening) {x : Byte} (hx : x ≠ Config.flag) :
    sc.octet x = ((sc.beginContent.take x).advance, none) := by
  simp [Scan.octet, h, hx]

theorem scan_octet_content {sc : Scan} (h : sc.phase = .content) {x : Byte} (hx : x ≠ Config.flag) :
    sc.octet x = ((sc.take x).advance, none) := by
  simp [Scan.octet, h, hx]

theorem scan_octet_frame_end {sc : Scan} (h : sc.phase = .content) :
    sc.octet Config.flag = (Scan.reopened, some (classify sc.index sc.decoded sc.pending sc.acc)) := by
  simp [Scan.octet, h]

end Sys2Proof.Machine
end

