-- ==== Sys2Proof/Tests/Slice0.lean ====
section
/-! SUPPORT. The model's own tests: operands out of bound, words written out from the spec's encodings, one small step
for each instruction with its result taken from spec/95_test_vectors.md or the rule named, and for every statement
with hypotheses a concrete state and operands that meet them. -/

namespace Sys2Proof.Tests

open Machine

/-- The reset state of an instance with the parameters of program P3 (spec/95_test_vectors.md), `RX_CAP` 16. -/
def start : State :=
  { State.reset with
    params := { rxCap := 16, txCap := 16, txqDepth := some 4, writeTimeoutMs := 100, writeRetries := 2,
                prioW := 2, timeW := some 8 } }

/-- A Receiver that holds these bytes. -/
def holding (bytes : List Byte) : State := { start with rxBuf := Memory.ofBytes bytes }

/-- A Sender with these payload bytes and items. -/
def queued (bytes : List Byte) (q : List Item) : State := { start with txBuf := Memory.ofBytes bytes, txq := q }

/-- A parser inside a frame's content that has decoded these octets. -/
def inContent (decoded : List Byte) : Scan :=
  { phase := .content, index := 2, pending := false, acc := fcsFold 0xFFFF decoded, decoded := decoded }

def responseOf : Host.Outcome State Fault Refusal → Option Response
  | .next t => some t.response
  | .fault _ => none
  | .refused _ => none

def stateOf : Host.Outcome State Fault Refusal → Option State
  | .next t => some t
  | .fault _ => none
  | .refused _ => none

def refusalOf : Host.Outcome State Fault Refusal → Option Refusal
  | .next _ => none
  | .fault _ => none
  | .refused r => some r

/-- Whether a step completed. -/
def completes (o : Host.Outcome State Fault Refusal) : Bool := (stateOf o).isSome

/-- `U{0xAA, pf=1, utype=8}`: the mode-set frame of V1. -/
def modeSetFrame : Frame := { address := 0xAA, control := .unnumbered 1 8 }

/-- `I{0x01, nr=0, pf=0, ns=0}`. -/
def infoFrame (ns : BitVec 3) : Frame := { address := 0x01, control := .information 0 0 ns }

/-- A queued Information frame, `ns`, at an offset, with age and attempts. -/
def infoItem (ns : BitVec 3) (off len ageMs attempts : Nat) : Item :=
  { off := off, len := len, frame := infoFrame ns, prio := 0, retryable := true, ageMs := ageMs, attempts := attempts }

/-! ### WellFormed refuses each ill-formed term (R85, U3) -/

theorem test_illformed_encode : (Instr.encode modeSetFrame (List.replicate 17 0)).wellFormed start.params = false := by
  decide
theorem test_illformed_decode : (Instr.decode (List.replicate 17 0)).wellFormed start.params = false := by decide
theorem test_illformed_priority : (Instr.txWriteFrame modeSetFrame [] 4 true).wellFormed start.params = false := by
  decide
theorem test_illformed_elapsed : (Instr.txRead 256).wellFormed start.params = false := by decide
theorem test_wellformed_at_bounds :
    (Instr.encode modeSetFrame (List.replicate 16 0)).wellFormed start.params = true ∧
    (Instr.decode (List.replicate 16 0)).wellFormed start.params = true ∧
    (Instr.txWriteFrame modeSetFrame [] 3 true).wellFormed start.params = true ∧
    (Instr.txRead 255).wellFormed start.params = true := by decide

/-- Each ill-formed operand is refused under its own name, and an illegal instance too (U3, U5). -/
theorem test_refusals :
    refusalOf (exec (.encode modeSetFrame (List.replicate 17 0)) start) = some .payloadAboveTxCap ∧
    refusalOf (exec (.decode (List.replicate 17 0)) start) = some .inputAboveRxCap ∧
    refusalOf (exec (.txWriteFrame modeSetFrame [] 4 true) start) = some .priorityAboveWidth ∧
    refusalOf (exec (.txRead 256) start) = some .elapsedAboveWidth ∧
    refusalOf (step { start with params := { start.params with rxCap := 0 } }) = some .illegalInstance := by decide

/-! ### Decoding: words written out from spec/30_encoding.md -/

/-- R83, bits 7..3 the unit, bits 2..0 the operation. -/
theorem test_decode_fcs :
    decodeIssue (.command 0b00000000 []) = .ok (.instr .fcsInit) ∧
    decodeIssue (.command 0b00000001 [.octets [0xAA]]) = .ok (.instr (.fcsUpdate 0xAA)) ∧
    decodeIssue (.command 0b00000010 []) = .ok (.instr .fcsRead) ∧
    decodeIssue (.command 0b00000011 []) = .ok (.instr .fcsFinal) ∧
    decodeIssue (.command 0b00000100 []) = .ok (.instr .fcsCheck) := by decide

theorem test_decode_codec :
    decodeIssue (.command 0b00001000 [.octets [0x7E]]) = .ok (.instr (.escByte 0x7E)) ∧
    decodeIssue (.command 0b00001001 [.octets [0xAA, 0x53], .octets []]) = .ok (.instr (.encode modeSetFrame [])) ∧
    decodeIssue (.command 0b00001010 [.octets [0x7E]]) = .ok (.instr (.decode [0x7E])) := by decide

theorem test_decode_receiver :
    decodeIssue (.command 0b00010000 [.octets [7, 8]]) = .ok (.instr (.rxWrite [7, 8])) ∧
    decodeIssue (.command 0b00010001 []) = .ok (.instr .rxReadFrame) ∧
    decodeIssue (.command 0b00010010 []) = .ok (.instr .rxReset) ∧
    decodeIssue (.command 0b00010011 []) = .ok (.instr .rxStatus) := by decide

theorem test_decode_sender :
    decodeIssue (.command 0b00011000 [.octets [0x01, 0x00], .octets [0x48], .number 3, .number 1]) =
      .ok (.instr (.txWriteFrame (infoFrame 0) [0x48] 3 true)) ∧
    decodeIssue (.command 0b00011001 [.number 60]) = .ok (.instr (.txRead 60)) ∧
    decodeIssue (.command 0b00011010 [.number 2, .number 31]) = .ok (.instr (.txRemove .unnumbered 31)) ∧
    decodeIssue (.command 0b00011011 []) = .ok (.instr .txReset) ∧
    decodeIssue (.command 0b00011100 []) = .ok (.instr .txStatus) := by decide

/-- R73: the fields of a control byte, bit 7 on the left; the frames are those of 95_test_vectors.md section 2.3. -/
theorem test_decode_control :
    decodeIssue (.controlVariant 0b01001010) = .ok (.instr (.ctrlInformation 2 0 5)) ∧
    decodeIssue (.controlVariant 0b01111101) = .ok (.instr (.ctrlSupervisory 3 1 3)) ∧
    decodeIssue (.controlVariant 0b10100111) = .ok (.instr (.ctrlUnnumbered 0 21)) ∧
    decodeIssue (.controlType 0b11000001) = .ok (.instr (.ctrlReceiveReady 6 0)) ∧
    decodeIssue (.controlType 0b00100101) = .ok (.instr (.ctrlReject 1 0)) ∧
    decodeIssue (.controlType 0b11111001) = .ok (.instr (.ctrlReceiveNotReady 7 1)) ∧
    decodeIssue (.controlType 0b01111101) = .ok (.instr (.ctrlSelectiveReject 3 1)) ∧
    decodeIssue (.controlType 0b01010011) = .ok (.instr (.ctrlModeSet 1)) ∧
    decodeIssue (.controlType 0b01100011) = .ok (.instr (.ctrlAcknowledge 0)) := by decide

theorem test_decode_raw :
    decodeIssue (.octet 0b01111110) = .ok (.instr .flag) ∧ decodeIssue (.octet 0b01111101) = .ok (.instr .escape) ∧
    decodeIssue (.escapePair 0b01111101 0b01011110) = .ok (.instr .escFlag) ∧
    decodeIssue (.escapePair 0b01111101 0b01011101) = .ok (.instr .escEscape) ∧
    decodeIssue (.octet 0x41) = .ok (.raw [0x41]) := by decide

/-- R84, R85, U3: what is no instruction is refused by name. -/
theorem test_decode_refuses :
    decodeIssue (.command 0x05 []) = .error (.unassignedCode 0x05) ∧
    decodeIssue (.command 0xFF []) = .error (.unassignedCode 0xFF) ∧
    decodeIssue (.command 0x01 []) = .error (.operandShape 0x01) ∧
    decodeIssue (.command 0x1A [.number 3, .number 0]) = .error (.operandValue 0x1A) ∧
    decodeIssue (.command 0x1A [.number 0, .number 32]) = .error (.operandValue 0x1A) := by decide

/-- R80 (a), R72: no unit of the stream is refused. A control byte without a named type is read by its format, a pair that
is neither escape sequence as raw octets (log 7). -/
theorem test_decode_reads_every_unit :
    decodeIssue (.controlType 0b00000000) = .ok (.instr (.ctrlInformation 0 0 0)) ∧
    decodeIssue (.controlType 0b10100111) = .ok (.instr (.ctrlUnnumbered 0 21)) ∧
    decodeIssue (.escapePair 0x7D 0x8A) = .ok (.raw [0x7D, 0x8A]) := by decide

/-- The words of the table whose bits no other format's row shares (log 7), each as its own row reads it. -/
theorem test_table_words :
    decodeTableWord 8 0x00 = some .fcsInit ∧ decodeTableWord 8 0x0A = some (.decode []) ∧
    decodeTableWord 8 0x18 = some (.txWriteFrame { address := 0, control := .information 0 0 0 } [] 0 false) ∧
    decodeTableWord 8 0x05 = some (.ctrlReject 0 0) ∧ decodeTableWord 8 0x0D = some (.ctrlSelectiveReject 0 0) ∧
    decodeTableWord 8 0x43 = some (.ctrlModeSet 0) ∧ decodeTableWord 8 0x63 = some (.ctrlAcknowledge 0) ∧
    decodeTableWord 8 0x7E = some .flag ∧ decodeTableWord 8 0x7D = some .escape ∧
    decodeTableWord 16 0x7D5E = some .escFlag ∧ decodeTableWord 16 0x7D5D = some .escEscape := by decide

/-- The words of the table run as the first instruction after reset, whatever the free parameters are. -/
theorem test_first_words_run :
    ([0x00, 0x01, 0x02, 0x03, 0x04, 0x08, 0x09, 0x0A, 0x10, 0x11, 0x12, 0x13, 0x18, 0x19, 0x1A, 0x1B, 0x1C, 0x05,
      0x0D, 0x43, 0x63, 0x7E, 0x7D].all fun w => completes (step (State.reset.withFetchWord 8 w))) = true ∧
    completes (step (State.reset.withFetchWord 16 0x7D5E)) = true ∧
    completes (step (State.reset.withFetchWord 16 0x7D5D)) = true := by decide

/-! ### FCS engine (95_test_vectors.md section 2.1) -/

theorem test_fcsInit : responseOf (exec .fcsInit { start with fcsAcc := 0x1234 }) = some .done ∧
    (stateOf (exec .fcsInit { start with fcsAcc := 0x1234 })).map State.fcsAcc = some 0xFFFF := by decide
theorem test_fcsUpdate : (stateOf (exec (.fcsUpdate 0x56) { start with fcsAcc := 0x1234 })).map State.fcsAcc =
    some 0x4006 := by decide
theorem test_fcsRead : responseOf (exec .fcsRead { start with fcsAcc := 0xC229 }) = some (.accumulator 0xC229) := by
  decide
theorem test_fcsFinal : responseOf (exec .fcsFinal { start with fcsAcc := 0xC229 }) = some (.fcsBytes 0xD6 0x3D) := by
  decide
theorem test_fcsCheck : responseOf (exec .fcsCheck { start with fcsAcc := 0xF0B8 }) = some (.good true) ∧
    responseOf (exec .fcsCheck start) = some (.good false) := by decide
/-- R109 (f). -/
theorem test_fcs_check_value : fcsOf [0x31, 0x32, 0x33, 0x34, 0x35, 0x36, 0x37, 0x38, 0x39] = 0x906E := by decide

/-! ### Codec (sections 2.2, 2.4, 2.5) -/

theorem test_escByte : responseOf (exec (.escByte 0x7E) start) = some (.octets [0x7D, 0x5E]) ∧
    responseOf (exec (.escByte 0x5E) start) = some (.octets [0x5E]) := by decide
theorem test_encode : responseOf (exec (.encode modeSetFrame []) start) =
    some (.octets [0x7E, 0xAA, 0x53, 0xD6, 0x3D, 0x7E]) := by decide
theorem test_encode_escapes_fcs :
    responseOf (exec (.encode { address := 0x7E, control := .information 0 0 6 } [0x7E, 0x7E, 0x7D]) start) =
      some (.octets [0x7E, 0x7D, 0x5E, 0x0C, 0x7D, 0x5E, 0x7D, 0x5E, 0x7D, 0x5D, 0x7D, 0x5D, 0x7D, 0x5E, 0x7E]) := by
  decide
theorem test_decode_valid_lenient : responseOf (exec (.decode [0x7E, 0x7D, 0x8A, 0x53, 0xD6, 0x3D, 0x7E]) start) =
    some (.decoded ⟨6, 0, some modeSetFrame, true, []⟩) := by decide
theorem test_decode_trailing_escape :
    responseOf (exec (.decode [0x7E, 0xAA, 0x53, 0xD6, 0x3D, 0x7D, 0x7E]) start) =
      some (.decoded ⟨6, 2, some modeSetFrame, false, [0xD6, 0x3D]⟩) := by decide
/-- R149: a run of flags, garbage before it; a control byte not reached; an empty message's FCS alone. -/
theorem test_decode_corners :
    decodeFrame [0x11, 0x7E, 0x7E, 0x7E, 0xAA, 0x53] = ⟨0, 0, none, false, []⟩ ∧
    decodeFrame [0x7E, 0x41, 0x7E] = ⟨2, 0, none, false, []⟩ ∧
    decodeFrame [0x7E, 0x00, 0x00, 0x7E] = ⟨3, 0, some { address := 0, control := .information 0 0 0 }, false, []⟩ := by
  decide

/-! ### Receiver (section 2.6) -/

theorem test_rxWrite_fits_exactly : (stateOf (exec (.rxWrite [0x07]) (holding (List.replicate 15 0x01)))).map
    (fun t => (t.rxLen, t.response)) = some (16, .done) := by decide
theorem test_rxWrite_refuses_more : (stateOf (exec (.rxWrite [0x07, 0x08]) (holding (List.replicate 15 0x01)))).map
    (fun t => (t.rxLen, t.response)) = some (15, .error .rxCapacity) := by decide
/-- The loop skips a fragment, returns the frame behind it and leaves its end flag. -/
theorem test_rxReadFrame :
    (stateOf (exec .rxReadFrame (holding [0x7E, 0x41, 0x7E, 0xAA, 0x53, 0xD6, 0x3D, 0x7E]))).map
      (fun t => (t.rxBuf.bytes, t.response)) = some ([0x7E], .frameRead 0 (some modeSetFrame) true) := by decide
/-- P5: an invalid frame is returned with all it parsed. -/
theorem test_rxReadFrame_invalid :
    (stateOf (exec .rxReadFrame (holding [0x7E, 0x01, 0x00, 0x48, 0x69, 0x04, 0x97, 0x7E]))).map
      (fun t => (t.rxPay.bytes, t.response)) =
      some ([0x48, 0x69, 0x04, 0x97], .frameRead 4 (some (infoFrame 0)) false) := by decide
theorem test_rxReset : (stateOf (exec .rxReset (holding [0x7E, 0x41]))).map State.rxLen = some 0 := by decide
theorem test_rxStatus : responseOf (exec .rxStatus (holding [0x7E, 0x41])) = some (.rxLength 2) := by decide

/-! ### Sender (section 2.7, programs P3, P4, P6) -/

/-- P4 step 3: a frame of higher priority goes before, its offset the length of the buffer. -/
theorem test_txWriteFrame :
    (stateOf (exec (.txWriteFrame { address := 1, control := .supervisory 1 0 0 } [] 1 false)
      (queued [0x11, 0x22, 0x33] [infoItem 0 0 3 0 0]))).map (fun t => t.txq.map Item.off) = some [3, 0] := by decide
theorem test_txWriteFrame_full :
    responseOf (exec (.txWriteFrame modeSetFrame [] 0 true) (queued [] (List.replicate 4 (infoItem 0 0 0 0 0)))) =
      some (.error .txCapacity) := by decide
/-- P3 step 4: due at exactly 100; the same octets again, the age back at 0. -/
theorem test_txRead_retries :
    (stateOf (exec (.txRead 40) (queued [0x48, 0x69] [infoItem 0 0 2 60 1]))).map
      (fun t => (t.txOut.bytes, t.txq)) =
      some ([0x7E, 0x01, 0x00, 0x48, 0x69, 0x04, 0x96, 0x7E], [infoItem 0 0 2 0 2]) := by decide
/-- P3 step 7: the fourth attempt is not made. -/
theorem test_txRead_times_out :
    (stateOf (exec (.txRead 1) (queued [0x48, 0x69] [infoItem 0 0 2 99 3]))).map
      (fun t => (t.response, t.txLen, t.txq)) = some (.error .txTimeout, 0, []) := by decide
/-- P4 step 8: removed from the front; the bytes and the offset of the other move down. -/
theorem test_txRemove :
    (stateOf (exec (.txRemove .information 0)
      (queued [0x11, 0x22, 0x33, 0x44, 0x55] [infoItem 0 0 3 30 1, infoItem 1 3 2 0 0]))).map
      (fun t => (t.response, t.txBuf.bytes, t.txq)) = some (.removed true, [0x44, 0x55], [infoItem 1 0 2 0 0]) := by decide
/-- P4 step 7: never transmitted, never removed; R190 (f): a key with high bits matches nothing. -/
theorem test_txRemove_nothing :
    responseOf (exec (.txRemove .information 1) (queued [0x44] [infoItem 1 0 1 0 0])) = some (.removed false) ∧
    responseOf (exec (.txRemove .information 8) (queued [0x44] [infoItem 0 0 1 0 1])) = some (.removed false) := by decide
theorem test_txReset : (stateOf (exec .txReset (queued [0x44] [infoItem 1 0 1 0 0]))).map
    (fun t => (t.txLen, t.txq)) = some (0, []) := by decide
theorem test_txStatus : responseOf (exec .txStatus (queued [0x44] [infoItem 1 0 1 0 0])) = some (.txLengths 1 1) := by
  decide

/-! ### Wire units (R88; the frames of section 2.3) -/

/-- `FLAG` opens, stays in the opening run, or ends a frame, with an escape pending or not. -/
theorem test_flag : responseOf (exec .flag start) =
    some (.read ⟨⟨.opening, [], []⟩, ⟨.opening, [], []⟩, ⟨.opening, [], [false]⟩, ⟨.opening, [], [true]⟩⟩ none) := by
  decide
theorem test_escape : responseOf (exec .escape start) =
    some (.read ⟨⟨.hunt, [], []⟩, ⟨.pending, [], []⟩, ⟨.pending, [], []⟩, ⟨.content, [0x5D], []⟩⟩ none) := by decide
theorem test_escFlag : responseOf (exec .escFlag start) =
    some (.read ⟨⟨.hunt, [], []⟩, ⟨.content, [0x7E], []⟩, ⟨.content, [0x7E], []⟩, ⟨.content, [0x5D, 0x5E], []⟩⟩ none) := by
  decide
theorem test_escEscape : responseOf (exec .escEscape start) =
    some (.read ⟨⟨.hunt, [], []⟩, ⟨.content, [0x7D], []⟩, ⟨.content, [0x7D], []⟩, ⟨.content, [0x5D, 0x5D], []⟩⟩ none) := by
  decide
/-- R123: after the marker any octet but the flag is XORed: `7D 8A` is the decoded octet 0xAA (section 2.2). -/
theorem test_raw_lenient : responseOf (takeRawOctets [0x7D, 0x8A] start) =
    some (.read ⟨⟨.hunt, [], []⟩, ⟨.content, [0xAA], []⟩, ⟨.content, [0xAA], []⟩, ⟨.content, [0x5D, 0x8A], []⟩⟩ none) := by
  decide

/-- What a wire row answers: the octets decoded in content, and the variant and fields. -/
def decodedInContent (o : Host.Outcome State Fault Refusal) : Option (List Byte × Option Control) :=
  match responseOf o with
  | some (.read rs c) => some (rs.content.decoded, c)
  | _ => none

/-- `I{0x41, nr=2, pf=0, ns=1}`: control 0x42. -/
theorem test_ctrlInformation : decodedInContent (exec (.ctrlInformation 2 0 1) start) =
    some ([0x42], some (.information 2 0 1)) := by decide
/-- Control 0x7D is on the wire as `7D 5D`, two raw octets. -/
theorem test_ctrlSupervisory_escaped :
    decodedInContent (exec (.ctrlSupervisory 3 1 3) start) = some ([0x7D], some (.supervisory 3 1 3)) ∧
    controlOctets (.supervisory 3 1 3) = [0x7D, 0x5D] := by decide
theorem test_ctrlUnnumbered : decodedInContent (exec (.ctrlUnnumbered 0 21) start) =
    some ([0xA7], some (.unnumbered 0 21)) := by decide
theorem test_ctrl_supervisory_types :
    decodedInContent (exec (.ctrlReceiveReady 0 0) start) = some ([0x01], some (.supervisory 0 0 0)) ∧
    decodedInContent (exec (.ctrlReject 0 0) start) = some ([0x05], some (.supervisory 0 0 1)) ∧
    decodedInContent (exec (.ctrlReceiveNotReady 0 0) start) = some ([0x09], some (.supervisory 0 0 2)) ∧
    decodedInContent (exec (.ctrlSelectiveReject 0 0) start) = some ([0x0D], some (.supervisory 0 0 3)) := by decide
theorem test_ctrl_unnumbered_types :
    decodedInContent (exec (.ctrlModeSet 1) start) = some ([0x53], some (.unnumbered 1 8)) ∧
    decodedInContent (exec (.ctrlAcknowledge 1) start) = some ([0x73], some (.unnumbered 1 12)) := by decide
/-- The raw octets of V1, one at a time: V1's decode result, and the end flag opens the next scan. -/
theorem test_serial_parser : Scan.start.octets [0x7E, 0xAA, 0x53, 0xD6, 0x3D, 0x7E] =
    (Scan.reopened, [⟨5, 0, some modeSetFrame, true, []⟩]) := by decide

/-! ### Witnesses: for every statement with hypotheses, values that meet them, at the ends of their ranges -/

theorem witness_FcsInitLoadsInitialValue : completes (exec .fcsInit start) = true := by decide

theorem witness_FcsDistinguishesSingleOctetChange :
    fcsUpdate 0x1234 0x56 = fcsUpdate 0x1234 0x56 ∧ (0x00 : Byte) ≠ 0xFF := by decide

theorem witness_UnstuffingEmitsWithinBounds : (0x7C : Byte) ≠ 0x7D ∧ (0x7E : Byte) ≠ 0x7D := by decide

theorem witness_ControlByteFollowsFormulas :
    (0xFE : Byte).getLsbD 0 = false ∧
    ((0xFD : Byte).getLsbD 0 = true ∧ (0xFD : Byte).getLsbD 1 = false) ∧
    ((0xFF : Byte).getLsbD 0 = true ∧ (0xFF : Byte).getLsbD 1 = true) := by decide

theorem witness_EncodeReturnsWireFormat :
    (List.replicate 16 (0x7E : Byte)).length ≤ start.params.txCap ∧ ([] : List Byte).length ≤ start.params.txCap := by
  decide

theorem witness_DecodeReportsDecodeFrame : (List.replicate 16 (0x7E : Byte)).length ≤ start.params.rxCap := by decide

/-- Each row of the policy table, with and without garbage, with one flag and with a run. -/
theorem witness_DecodeFrameFollowsPolicyTable :
    ((0x7E : Byte) ∉ ([0x01, 0x7D] : List Byte) ∧ (0x7E : Byte) ∉ ([] : List Byte)) ∧
    1 ≤ 1 ∧ ([0xAA] : List Byte) ≠ [] ∧
    (4 ≤ (unstuff [0xAA, 0x53, 0xD6, 0x3D]).1.length ∧ (unstuff [0xAA, 0x53, 0xD6, 0x3D]).2 = false ∧
      fcsFold 0xFFFF (unstuff [0xAA, 0x53, 0xD6, 0x3D]).1 = 0xF0B8) ∧
    ¬ (4 ≤ (unstuff [0x00, 0x00]).1.length ∧ (unstuff [0x00, 0x00]).2 = false ∧
      fcsFold 0xFFFF (unstuff [0x00, 0x00]).1 = 0xF0B8) ∧
    ¬ (4 ≤ (unstuff [0xAA, 0x53, 0xD6, 0x3D, 0x7D]).1.length ∧ (unstuff [0xAA, 0x53, 0xD6, 0x3D, 0x7D]).2 = false ∧
      fcsFold 0xFFFF (unstuff [0xAA, 0x53, 0xD6, 0x3D, 0x7D]).1 = 0xF0B8) := by decide

theorem witness_DecodeInvertsEncode :
    (0x7E : Byte) ∉ ([0x7D, 0x7F] : List Byte) ∧ (0x7E : Byte) ∉ ([] : List Byte) := by decide

theorem witness_DecodeConsumptionMakesProgress :
    (decodeFrame [0x7E, 0x41, 0x42, 0x7E]).frame ≠ none ∧
    (0x7E : Byte) ∈ ([0x7E, 0x41, 0x7E] : List Byte) ∧ 1 ≤ (decodeFrame [0x7E, 0x41, 0x7E]).consumed := by decide

theorem witness_CorruptedOctetYieldsInvalid :
    fcsFold 0xFFFF ([] ++ 0xAA :: [0x53, 0xD6, 0x3D]) = 0xF0B8 ∧ (0xAA : Byte) ≠ 0x7E := by decide

/-- A write that fits exactly, the empty write on a full buffer, and one byte too many. -/
theorem witness_RxWriteAppendsOrChangesNothing :
    (holding (List.replicate 16 1)).rxBuf.wf = true ∧
    [(1 : Byte)].length ≤ start.params.rxCap - (holding (List.replicate 15 1)).rxLen ∧
    ([] : List Byte).length ≤ start.params.rxCap - (holding (List.replicate 16 1)).rxLen ∧
    start.params.rxCap - (holding (List.replicate 16 1)).rxLen < [(1 : Byte)].length := by decide

theorem witness_WritesStoreAtTailOnly :
    ((holding (List.replicate 15 1)).rxBuf.wf = true ∧
      [(1 : Byte)].length ≤ start.params.rxCap - (holding (List.replicate 15 1)).rxLen) ∧
    ((queued (List.replicate 15 1) []).txBuf.wf = true ∧ 3 < 2 ^ start.params.prioW ∧
      [(1 : Byte)].length ≤ start.params.txCap - (queued (List.replicate 15 1) []).txLen ∧
      start.params.txqDepth ≠ some (queued (List.replicate 15 1) []).txq.length) := by decide

/-- A frame at once; nothing but an opening flag; a fragment in front. -/
theorem witness_RxReadFrameFollowsLoop :
    (decodeFrame (holding [0x7E, 0x41, 0x42, 0x7E]).rxBuf.bytes).frame ≠ none ∧
    ((decodeFrame (holding [0x7E]).rxBuf.bytes).frame = none ∧
      (decodeFrame (holding [0x7E]).rxBuf.bytes).consumed = 0) ∧
    ((decodeFrame (holding [0x7E, 0x41, 0x7E]).rxBuf.bytes).frame = none ∧
      1 ≤ (decodeFrame (holding [0x7E, 0x41, 0x7E]).rxBuf.bytes).consumed) := by decide

theorem witness_RxReadFrameTerminates : (Memory.ofBytes [0x7E, 0x41, 0x7E]).length / 2 + 2 ≤ 3 := by decide

/-- A frame with a payload of one byte is returned. -/
theorem witness_ReturnedFrameLeavesEndFlag :
    (stateOf (exec .rxReadFrame (holding [0x7E, 0x41, 0x42, 0x43, 0x7E]))).map State.response =
      some (.frameRead 1 (some { address := 0x41, control := .information 2 0 1 }) false) := by decide

theorem witness_ReturnedPayloadIsInResultBuffer :
    (stateOf (exec .rxReadFrame (holding [0x7E, 0x41, 0x42, 0x43, 0x7E]))).map State.response =
      some (.frameRead 1 (some { address := 0x41, control := .information 2 0 1 }) false) ∧
    (holding [0x7E, 0x41, 0x42, 0x43, 0x7E]).rxLen ≤ start.params.rxCap := by decide

/-- A full buffer of flags alone, and a full buffer with a frame begun; a write and a read that leave it so. -/
theorem witness_StuckReceiverNeedsReset :
    StuckReceiver (holding (List.replicate 16 0x7E)) ∧ StuckReceiver (holding (0x7E :: List.replicate 15 0x01)) ∧
    [(0x7E : Byte)] ≠ [] ∧ Instr.rxReadFrame ≠ .rxReset ∧
    completes (exec .rxReadFrame (holding (List.replicate 16 0x7E))) = true := by
  unfold StuckReceiver; decide

theorem witness_TxWriteFrameEnqueuesOrChangesNothing :
    3 < 2 ^ start.params.prioW ∧
    ([(1 : Byte)].length ≤ start.params.txCap - (queued (List.replicate 15 1) []).txLen ∧
      start.params.txqDepth ≠ some (queued (List.replicate 15 1) []).txq.length) ∧
    start.params.txCap - (queued (List.replicate 16 1) []).txLen < [(1 : Byte)].length ∧
    start.params.txqDepth = some (queued [] (List.replicate 4 (infoItem 0 0 0 0 0))).txq.length := by decide

/-- A queue with two items of one priority, and one behind them. -/
theorem witness_InsertionKeepsServiceOrder :
    ServiceOrdered
      [{ infoItem 0 0 0 0 0 with prio := 1 }, { infoItem 1 0 0 0 0 with prio := 1 }, infoItem 2 0 0 0 0] := by
  unfold ServiceOrdered; decide

/-- An empty queue; a head one millisecond short of due; a head never sent; a head exactly due with one attempt left, and
with none; both kinds of head. -/
theorem witness_TxReadFollowsSixSteps :
    start.params.timeFits 255 = true ∧ start.txq = [] ∧
    (queued [] [infoItem 0 0 0 60 1]).txq = infoItem 0 0 0 60 1 :: [] ∧
    (1 ≤ (infoItem 0 0 0 60 1).attempts ∧ (infoItem 0 0 0 60 1).ageMs + 39 < start.params.writeTimeoutMs) ∧
    (infoItem 0 0 0 0 0).attempts = 0 ∧
    (1 ≤ (infoItem 0 0 0 60 2).attempts ∧ (infoItem 0 0 0 60 2).attempts ≤ start.params.writeRetries ∧
      start.params.writeTimeoutMs ≤ (infoItem 0 0 0 60 2).ageMs + 40) ∧
    (start.params.writeRetries + 1 ≤ (infoItem 0 0 0 99 3).attempts ∧
      start.params.writeTimeoutMs ≤ (infoItem 0 0 0 99 3).ageMs + 1) ∧
    (infoItem 0 0 16 60 2).len ≤ start.params.txCap ∧ (infoItem 0 0 0 60 2).retryable = true ∧
    ({ infoItem 0 0 0 0 0 with retryable := false } : Item).retryable = false := by decide

theorem witness_TxReadTouchesOnlyHead :
    (queued [] [infoItem 0 0 0 60 1, infoItem 1 0 0 0 0]).txq = infoItem 0 0 0 60 1 :: [infoItem 1 0 0 0 0] ∧
    completes (exec (.txRead 0) (queued [] [infoItem 0 0 0 60 1, infoItem 1 0 0 0 0])) = true := by decide

/-- A match behind an item never sent; a queue in which nothing was sent. -/
theorem witness_TxRemoveTakesFirstMatch :
    (queued [] [infoItem 7 0 0 0 0, infoItem 7 0 0 0 1]).txq = [infoItem 7 0 0 0 0] ++ infoItem 7 0 0 0 1 :: [] ∧
    (1 ≤ (infoItem 7 0 0 0 1).attempts ∧ (7 : BitVec 3).toNat = (7 : BitVec 5).toNat) ∧
    ¬ 1 ≤ (infoItem 7 0 0 0 0).attempts := by decide

theorem witness_RemovalShiftsLaterBytes :
    (queued [0x11, 0x22] [infoItem 0 0 1 0 1, infoItem 1 1 1 0 0]).txBuf.wf = true ∧
    (queued [0x11, 0x22] [infoItem 0 0 1 0 1, infoItem 1 1 1 0 0]).txq[1]? = some (infoItem 1 1 1 0 0) ∧
    (infoItem 1 1 1 0 0).off + (infoItem 1 1 1 0 0).len ≤
      (queued [0x11, 0x22] [infoItem 0 0 1 0 1, infoItem 1 1 1 0 0]).txLen := by decide

/-- Two items, the later one of higher priority and so the head; the Receiver's buffer full. -/
def witnessState : State :=
  { start with
    rxBuf := Memory.ofBytes (List.replicate 16 0x7E),
    txBuf := Memory.ofBytes [0x11, 0x22],
    txq := [{ infoItem 1 1 1 0 0 with prio := 1 }, infoItem 0 0 1 60 1],
    host := [.command 0x11 [], .command 0x19 [.number 0]] }

theorem witnessState_inv : Inv witnessState where
  rxWf := by decide
  rxPayWf := by decide
  txWf := by decide
  txOutWf := by decide
  rxWithin := by decide
  txWithin := by decide
  depth := by show witnessState.txq.length ≤ 4; decide
  partitioned := by
    refine ⟨[infoItem 0 0 1 60 1, { infoItem 1 1 1 0 0 with prio := 1 }], List.Perm.swap _ _ _, fun p => ?_, by
      simp [Contiguous, infoItem, witnessState, State.txLen, Memory.ofBytes, Memory.ofBytesFrom]⟩
    rcases p with _ | _ | p <;> simp [witnessState, infoItem]
  ordered := by unfold ServiceOrdered; decide
  items := by unfold ItemSound; decide
  payWithin := by decide
  outWithin := by decide

theorem witness_RemovalPreservesOtherPayloads :
    Inv witnessState ∧
    witnessState.txq = [] ++ { infoItem 1 1 1 0 0 with prio := 1 } :: [infoItem 0 0 1 60 1] :=
  ⟨witnessState_inv, rfl⟩

theorem witness_EveryStepKeepsInvariants : Inv witnessState ∧ completes (step witnessState) = true :=
  ⟨witnessState_inv, by decide⟩

/-- P3, its transmissions and its one delivery failure. -/
theorem witness_RetryableFrameIsSentRetriesPlusOneTimes :
    let out : List Byte := [0x7E, 0x01, 0x00, 0x48, 0x69, 0x04, 0x96, 0x7E]
    let before : List Observed := [⟨.sent 8, out⟩, ⟨.sent 0, []⟩, ⟨.sent 8, out⟩, ⟨.sent 8, out⟩, ⟨.sent 0, []⟩]
    (runOps ([0, 60, 40, 100, 99, 1].map Instr.txRead) (queued [0x48, 0x69] [infoItem 0 0 2 0 0])).map Prod.snd =
      some (before ++ ⟨.error .txTimeout, []⟩ :: []) ∧
    (infoItem 0 0 2 0 0).retryable = true ∧ (infoItem 0 0 2 0 0).attempts = 0 ∧
    ∀ o ∈ before, o.result ≠ .error .txTimeout := by decide

/-- No wait before the last call, and waits that end one millisecond short; the last call short of due, and due. -/
theorem witness_NoRetryBeforeTimeout :
    (infoItem 0 0 0 60 1).retryable = true ∧ 1 ≤ (infoItem 0 0 0 60 1).attempts ∧
    (∀ e ∈ [30, 9] ++ [1], start.params.timeFits e = true) ∧
    (infoItem 0 0 0 60 1).ageMs + [30, 9].sum < start.params.writeTimeoutMs ∧
    ¬ start.params.writeTimeoutMs ≤ (infoItem 0 0 0 60 1).ageMs + [30, 9].sum + 0 ∧
    start.params.writeTimeoutMs ≤ (infoItem 0 0 0 60 1).ageMs + [30, 9].sum + 1 ∧
    (infoItem 0 0 0 60 2).attempts ≤ start.params.writeRetries ∧
    start.params.writeRetries < (infoItem 0 0 0 60 3).attempts := by decide

theorem witness_StepRunsDecodedInstruction :
    start.params.legal = true ∧ (start.issue (.octet 0x41)).host = .octet 0x41 :: [] ∧
    decodeIssue (.command 0x11 []) = .ok (.instr .rxReadFrame) ∧ decodeIssue (.octet 0x41) = .ok (.raw [0x41]) := by
  decide

theorem witness_StepIdlesOrRefusesOtherwise :
    (start.params.legal = true ∧ start.host = []) ∧
    decodeIssue (.command 0x05 []) = .error (.unassignedCode 0x05) ∧
    (start.issue (.controlType 0x00)).host = .controlType 0x00 :: [] ∧
    ({ start with params := { start.params with prioW := 1 } } : State).params.legal = false := by decide

/-- Both ends of every unassigned range. -/
theorem witness_UnassignedCodesAreRefused :
    (∀ code ∈ ([0x05, 0x07, 0x0B, 0x0F, 0x14, 0x17, 0x1D, 0xFF] : List Byte),
      (0x05 ≤ code.toNat ∧ code.toNat ≤ 0x07 ∨ 0x0B ≤ code.toNat ∧ code.toNat ≤ 0x0F ∨
        0x14 ≤ code.toNat ∧ code.toNat ≤ 0x17 ∨ 0x1D ≤ code.toNat)) ∧
    start.params.legal = true ∧ (start.issue (.command 0xFF [])).host = .command 0xFF [] :: [] := by decide

theorem witness_InstructionsCompleteWithinBounds :
    (Instr.txRead 255).wellFormed start.params = true ∧ (Instr.txRead 256).wellFormed start.params = false := by decide

theorem witness_ErrorsComeFromThreeOperations :
    responseOf (exec (.rxWrite (List.replicate 17 0)) start) = some (.error .rxCapacity) ∧
    responseOf (exec (.txWriteFrame modeSetFrame (List.replicate 17 0) 0 true) start) = some (.error .txCapacity) ∧
    responseOf (exec (.txRead 1) (queued [] [infoItem 0 0 0 99 3])) = some (.error .txTimeout) := by decide

theorem witness_PartialResetsReachResetState :
    hwReset.Perm hwReset ∧ [Instr.txReset, .fcsInit, .rxReset].Perm hwReset := by decide

theorem witness_FirstOperationResultsAfterReset :
    start.params.legal = true ∧ start.params.timeFits 255 = true ∧ 3 < 2 ^ start.params.prioW ∧
    (List.replicate 16 (0 : Byte)).length ≤ start.params.rxCap ∧
    (List.replicate 16 (0 : Byte)).length ≤ start.params.txCap := by decide

theorem witness_InstructionsWriteOnlyTheirUnit :
    completes (exec (.txRead 0) (queued [] [infoItem 0 0 0 0 0])) = true ∧
    completes (exec .rxReadFrame (holding [0x7E, 0x41, 0x42, 0x7E])) = true := by decide

/-- Two states with one Receiver and different Senders and accumulators. -/
theorem witness_UnitsDoNotObserveEachOther :
    sameReceiver (holding [0x7E]) { holding [0x7E] with fcsAcc := 0, txq := [infoItem 0 0 0 0 0] } ∧
    sameSender (queued [1] []) { queued [1] [] with fcsAcc := 0, rxBuf := Memory.ofBytes [1] } ∧
    sameFcs start (holding [1]) ∧
    completes (exec .rxReadFrame (holding [0x7E])) = true := by
  unfold sameReceiver sameSender sameFcs; decide

/-- Octets next to the reserved ones; the two ways a frame ends. -/
theorem witness_ParserReadsRawOctetByState :
    (0x7F : Byte) ≠ 0x7E ∧ (0x7F : Byte) ≠ 0x7D ∧ (0x7C : Byte) ≠ 0x7E ∧ (0x7C : Byte) ≠ 0x7D ∧
    ((inContent []).octet 0x7F).1.phase = .content ∧
    (readOctet (inContent []).place 0x7E).frameEnds = [false] ∧
    (readOctet ((inContent []).octet 0x7D).1.place 0x7E).frameEnds = [true] ∧
    (readOctet Scan.start.place 0x7E).frameEnds = [] := by decide

/-- A parser in each of the four places. -/
theorem witness_EscapeSequencesDecodeToReservedOctets :
    ((0x7E : Byte) = 0x7E ∨ (0x7E : Byte) = 0x7D) ∧ ((0x7D : Byte) = 0x7E ∨ (0x7D : Byte) = 0x7D) ∧
    Scan.start.phase = .hunt ∧ Scan.reopened.phase = .opening ∧
    ((inContent []).phase = .content ∧ (inContent []).pending = false) ∧
    (((inContent []).octet 0x7D).1.phase = .content ∧ ((inContent []).octet 0x7D).1.pending = true) := by decide

theorem witness_ControlByteAtOffsetOneGivesFrame :
    (inContent [0x7E]).phase = .content ∧ (inContent [0x7E]).pending = false ∧ (inContent [0x7E]).decoded = [0x7E] := by
  decide

theorem witness_WireUnitsRunTheDecoder :
    (0x7E : Byte) ∈ ([0x11, 0x7E, 0x41, 0x7E, 0x99] : List Byte) ∧
    1 ≤ (decodeFrame [0x11, 0x7E, 0x41, 0x7E, 0x99]).consumed ∧ (inContent [0x01]).Coherent :=
  ⟨by decide, by decide, fun _ => rfl⟩

/-- A connected session of either role. -/
def connected (role : Role) (sequenceNumber : BitVec 3) : Session := ⟨sequenceNumber, true, role, 0xAA, 0x01, 0⟩

/-- A master's frame and a slave's; in sequence at the wrap; invalid; out of sequence; the frame as `RX_READ_FRAME` returns
it. -/
theorem witness_HostAnswersInformationFrames :
    let fromPeer : Frame := { address := 0xAA, control := .information 0 0 7 }
    (connected .master 7).initialized = true ∧
    ((connected .master 7).role = .master → fromPeer.address = (connected .master 7).peerAddress) ∧
    ((connected .master 7).role = .slave → fromPeer.address = (connected .master 7).configuredAddress) ∧
    ((connected .slave 7).role = .master → (infoFrame 7).address = (connected .slave 7).peerAddress) ∧
    ((connected .slave 7).role = .slave → (infoFrame 7).address = (connected .slave 7).configuredAddress) ∧
    (infoFrame 7).control = .information 0 0 7 ∧
    (true = true ∧ (7 : BitVec 3) = (connected .slave 7).sequenceNumber) ∧
    ((false = false) ∨ (7 : BitVec 3) ≠ (connected .slave 7).sequenceNumber) ∧
    ((true = false) ∨ (0 : BitVec 3) ≠ (connected .slave 7).sequenceNumber) ∧
    ({ start with response := .frameRead 0 (some (infoFrame 7)) true } : State).response =
      .frameRead 0 (some (infoFrame 7)) true := by decide

/-- `nr` 0 acknowledges `ns` 7, behind an item of higher priority that is none; nothing was sent yet in the other queue. -/
theorem witness_ReceiveReadyRemovesAcknowledgedFrame :
    let response : Item := { infoItem 0 0 0 0 1 with frame := ⟨0x01, .supervisory 1 0 0⟩, prio := 1 }
    let receiveReady : Frame := { address := 0x01, control := .supervisory 0 0 0 }
    (connected .slave 0).initialized = true ∧
    ((connected .slave 0).role = .master → receiveReady.address = (connected .slave 0).peerAddress) ∧
    ((connected .slave 0).role = .slave → receiveReady.address = (connected .slave 0).configuredAddress) ∧
    receiveReady.control = .supervisory 0 0 0 ∧
    (queued [] [response, infoItem 7 0 0 0 1]).txq = [response] ++ infoItem 7 0 0 0 1 :: [] ∧
    (1 ≤ (infoItem 7 0 0 0 1).attempts ∧ (infoItem 7 0 0 0 1).frame.control = .information 0 0 7 ∧
      (7 : BitVec 3).toNat = ((0 : BitVec 3).toNat + 7) % 8) ∧
    (∀ a q b, response.frame.control ≠ .information a q b) ∧
    ¬ 1 ≤ (infoItem 7 0 0 0 0).attempts := by decide

/-- Sessions of both roles, and frames for them and for others. -/
theorem witness_HostHandshakeFollowsRules :
    let master : Session := ⟨0, false, .master, 0xAA, 0x01, 0⟩
    let slave : Session := ⟨5, true, .slave, 0xAA, 0x01, 0⟩
    let ack : Frame := { address := 0xAA, control := .unnumbered 1 12 }
    let modeSetting : Frame := { address := 0x01, control := .unnumbered 1 8 }
    (0 ∈ [0] ∧ 1 ∉ [0]) ∧
    (master.role = .master ∧ ack.address = master.peerAddress ∧ ack.control = .unnumbered 1 12 ∧
      modeSetFrame.address = master.peerAddress ∧ modeSetFrame.control = .unnumbered 1 8 ∧
      modeSetting.address ≠ master.peerAddress ∧ master.initialized = false) ∧
    (slave.role = .slave ∧ modeSetting.address = slave.configuredAddress ∧ modeSetting.control = .unnumbered 1 8 ∧
      ack.address ≠ slave.configuredAddress) ∧
    (slave.disconnect.role = .slave ∧ slave.disconnect.initialized = false ∧
      (infoFrame 0).address = slave.disconnect.configuredAddress ∧
      ∀ q, (infoFrame 0).control ≠ .unnumbered q 8) := by decide

end Sys2Proof.Tests
end

section
/-! PROOFS. The three partial resets write disjoint parts of the state, so their order does not matter (spec/10_state.md
R39). -/

namespace Sys2Proof

open Machine

/-- Nothing is returned through a buffer with `OK`. -/
theorem observe_of_done {t : State} (h : t.response = .done) : observe t = ⟨.done, []⟩ := by
  simp [observe, resultBytes, h]

/-- The instructions of `HW_RESET` are the three partial resets (R87). -/
theorem mem_hwReset {i : Instr} : i ∈ hwReset ↔ i = .fcsInit ∨ i = .rxReset ∨ i = .txReset := by simp [hwReset]

/-- The state a partial reset leaves (R104, R163, R192). No other instruction is one, and the state stays. -/
def afterPartialReset (s : State) : Instr → State
  | .fcsInit => { s with fcsAcc := Config.fcsInit, response := .done }
  | .rxReset => { s with rxBuf := Memory.unspecified, rxPay := Memory.unspecified, response := .done }
  | .txReset => { s with txBuf := Memory.unspecified, txq := [], txOut := Memory.unspecified, response := .done }
  | _ => s

/-- A partial reset completes from every state. -/
theorem exec_partialReset {i : Instr} (h : i ∈ hwReset) (s : State) : exec i s = .next (afterPartialReset s i) := by
  obtain rfl | rfl | rfl := mem_hwReset.1 h <;> rfl

/-- A partial reset answers `OK`. -/
theorem afterPartialReset_response {i : Instr} (h : i ∈ hwReset) (s : State) :
    (afterPartialReset s i).response = .done := by
  obtain rfl | rfl | rfl := mem_hwReset.1 h <;> rfl

/-- Two partial resets commute: each writes its own unit, and all write the same response. -/
theorem afterPartialReset_comm {i j : Instr} (hi : i ∈ hwReset) (hj : j ∈ hwReset) (s : State) :
    afterPartialReset (afterPartialReset s i) j = afterPartialReset (afterPartialReset s j) i := by
  obtain rfl | rfl | rfl := mem_hwReset.1 hi <;> obtain rfl | rfl | rfl := mem_hwReset.1 hj <;> rfl

/-- A run of partial resets completes with `OK` from each, and leaves what they leave one after another. -/
theorem runOps_partialResets {ops : List Instr} (h : ∀ i ∈ ops, i ∈ hwReset) (s : State) :
    runOps ops s = some (ops.foldl afterPartialReset s, List.replicate ops.length ⟨.done, []⟩) := by
  induction ops generalizing s with
  | nil => rfl
  | cons i rest ih =>
    obtain ⟨hi, hrest⟩ := List.forall_mem_cons.1 h
    rw [runOps_cons_next (exec_partialReset hi s), ih hrest, observe_of_done (afterPartialReset_response hi s)]
    rfl

/-- What `HW_RESET` leaves (R87, R39): the reset state, but for the parameters and the fields of the model's own. -/
theorem foldl_afterPartialReset_hwReset (s : State) :
    hwReset.foldl afterPartialReset s =
      { State.reset with params := s.params, response := .done, host := s.host } := rfl

/-- Settles O50: partial resets commute, so every order of the three leaves what the order of `HW_RESET` leaves. -/
theorem partialResetsReachResetState : Obligations.PartialResetsReachResetState := by
  refine ⟨⟨rfl, rfl, rfl, rfl⟩, fun s ops hperm => ⟨[], [], ?_⟩⟩
  have hmem : ∀ i ∈ ops, i ∈ hwReset := fun i hi => hperm.mem_iff.1 hi
  have hfold : ops.foldl afterPartialReset s = hwReset.foldl afterPartialReset s :=
    hperm.foldl_eq' (fun i hi j hj => afterPartialReset_comm (hmem i hi) (hmem j hj)) s
  rw [runOps_partialResets hmem, hfold, foldl_afterPartialReset_hwReset, hperm.length_eq]
  rfl

end Sys2Proof
end

section
/-! PROOFS. A command code that R83 does not assign is refused (spec/30_encoding.md R84): the decoder names the code, and a
step refuses whatever the decoder does. -/

namespace Sys2Proof

open Machine

/-- The command codes R84 lists as unassigned. -/
def IsUnassigned (code : Byte) : Prop :=
  0x05 ≤ code.toNat ∧ code.toNat ≤ 0x07 ∨ 0x0B ≤ code.toNat ∧ code.toNat ≤ 0x0F ∨
    0x14 ≤ code.toNat ∧ code.toNat ≤ 0x17 ∨ 0x1D ≤ code.toNat

/-- Each of the 17 assigned codes lies outside the ranges of R84, so only the decoder's last case is left. -/
theorem decodeCommand_of_isUnassigned {code : Byte} (h : IsUnassigned code) (operands : List Operand) :
    decodeCommand code operands = .error (.unassignedCode code) := by
  unfold IsUnassigned at h
  unfold decodeCommand
  split
  case h_18 => rfl
  all_goals omega

/-- On an unassigned code the operands are not looked at. -/
theorem decodeIssue_command_of_isUnassigned {code : Byte} (h : IsUnassigned code) (operands : List Operand) :
    decodeIssue (.command code operands) = .error (.unassignedCode code) := by
  simp only [decodeIssue, decodeCommand_of_isUnassigned h, asDecoded]

/-- A legal instance refuses what the decoder refuses, for the decoder's reason (R84, R85). -/
theorem step_of_decodeIssue_error {s : State} {issue : Issue} {rest : List Issue} {reason : DecodeError}
    (hlegal : s.params.legal = true) (hhost : s.host = issue :: rest) (hdecode : decodeIssue issue = .error reason) :
    step s = .refused (.undecodable reason) := by
  simp only [step, fetch, hlegal, hhost, hdecode]

/-- Settles O47: the decoder refuses every unassigned code, so the step does. -/
theorem unassignedCodesAreRefused : Obligations.UnassignedCodesAreRefused :=
  fun _ operands _ _ hcode hlegal hhost =>
    step_of_decodeIssue_error hlegal hhost (decodeIssue_command_of_isUnassigned hcode operands)

end Sys2Proof
end

section
/-! PROOFS. The FCS engine: what each of its five operations leaves (spec/40_fcs.md R104 to R108), and the table as the
construction of R100. -/

namespace Sys2Proof

open Machine

/-! ### What each operation leaves -/

/-- R104: whatever `FCS_ACC` held. -/
theorem exec_fcsInit (s : State) : exec .fcsInit s = .next { s with fcsAcc := Config.fcsInit, response := .done } := rfl

theorem exec_fcsUpdate (b : Byte) (s : State) :
    exec (.fcsUpdate b) s = .next { s with fcsAcc := fcsUpdate s.fcsAcc b, response := .done } := rfl

theorem exec_fcsRead (s : State) : exec .fcsRead s = .next { s with response := .accumulator s.fcsAcc } := rfl

theorem exec_fcsFinal (s : State) :
    exec .fcsFinal s =
      .next { s with
        response := .fcsBytes (fcsLow (s.fcsAcc ^^^ Config.fcsXorOut)) (fcsHigh (s.fcsAcc ^^^ Config.fcsXorOut)) } := rfl

theorem exec_fcsCheck (s : State) : exec .fcsCheck s = .next { s with response := .good (residueGood s.fcsAcc) } := rfl

/-- The residue test is the comparison of R108. -/
theorem residueGood_eq_decide (acc : Word) : residueGood acc = decide (acc = Config.fcsGood) := rfl

/-! ### FCS_INIT, FCS_UPDATE and the reads -/

/-- The state `FCS_INIT` leaves is a fixed point of it (R104). -/
theorem exec_fcsInit_idempotent {s t : State} (h : exec .fcsInit s = .next t) : exec .fcsInit t = .next t := by
  obtain rfl := next_inj ((exec_fcsInit s).symm.trans h)
  rw [exec_fcsInit]

/-- Settles O1: the next state of `FCS_INIT`, and that it is a fixed point. -/
theorem fcsInitLoadsInitialValue : Obligations.FcsInitLoadsInitialValue :=
  ⟨rfl, fun s => ⟨exec_fcsInit s, fun _ => exec_fcsInit_idempotent⟩⟩

/-- Settles O2: the next state of `FCS_UPDATE`, with the table step of R102 written out; the corner values are evaluated. -/
theorem fcsUpdateStepsAccumulator : Obligations.FcsUpdateStepsAccumulator :=
  ⟨fun _ => rfl, exec_fcsUpdate, by decide, by decide, by decide, by decide, by decide, by decide⟩

/-- The frame of the source with control byte 0x53 leaves the residue (R100, R108). -/
theorem fcsFold_frame_0x53 : fcsFold 0xFFFF [0xAA, 0x53, 0xD6, 0x3D] = 0xF0B8 := by decide

/-- Settles O3: the next states of the three reads; the rules' examples are evaluated. -/
theorem fcsReadsReportAccumulator : Obligations.FcsReadsReportAccumulator := by
  refine ⟨rfl, rfl, rfl, fun s => ⟨exec_fcsRead s, exec_fcsFinal s, ?_⟩, by decide, by decide, fcsFold_frame_0x53,
    by decide⟩
  rw [exec_fcsCheck, residueGood_eq_decide]
  rfl

/-! ### The table -/

/-- One step of the construction of R100: shift right, and XOR the polynomial if the bit shifted out was 1. -/
def reflectedStep (v : Word) : Word := if v.getLsbD 0 = true then (v >>> 1) ^^^ Config.fcsPoly else v >>> 1

/-- The value R100 gives entry `i`. -/
def reflectedEntry (i : Nat) : Word := reflectedStep^[8] (BitVec.ofNat 16 i)

theorem fcsTable00_eq : fcsTable00 = (List.range' 0x00 64).map reflectedEntry := by decide
theorem fcsTable40_eq : fcsTable40 = (List.range' 0x40 64).map reflectedEntry := by decide
theorem fcsTable80_eq : fcsTable80 = (List.range' 0x80 64).map reflectedEntry := by decide
theorem fcsTableC0_eq : fcsTableC0 = (List.range' 0xC0 64).map reflectedEntry := by decide

/-- The table of R101 is the construction of R100, quarter by quarter. -/
theorem fcsTable_eq_map_range : fcsTable = (List.range 256).map reflectedEntry := by
  rw [fcsTable, fcsTable00_eq, fcsTable40_eq, fcsTable80_eq, fcsTableC0_eq, ← List.map_append, ← List.map_append,
    ← List.map_append, List.range'_append_1, List.range'_append_1, List.range'_append_1, List.range_eq_range']

@[simp] theorem fcsTable_length : fcsTable.length = 256 := by simp [fcsTable_eq_map_range]

/-- R100 for every index the engine uses. -/
theorem fcsTableEntry_eq {i : Nat} (h : i < 256) : fcsTableEntry i = reflectedEntry i := by
  simp [fcsTableEntry, fcsTable_eq_map_range, List.getD_eq_getElem?_getD, h]

/-- Settles O4: the table is the construction; the source's two frames are evaluated with it. -/
theorem fcsTableIsReflectedConstruction : Obligations.FcsTableIsReflectedConstruction :=
  ⟨fcsTable_length, fun i => fcsTableEntry_eq i.isLt, by decide, by decide, by decide, by decide, fcsFold_frame_0x53,
    by decide⟩

end Sys2Proof
end

section
/-! PROOFS. Byte stuffing: what one escaped octet can be, and what stuffing is of it (spec/41_stuffing.md R120, R121,
R125). -/

namespace Sys2Proof

open Machine

/-! ### One escaped octet -/

/-- The three units an octet is escaped to (R120), with the XOR worked out. -/
theorem escapeOctet_units (v : Byte) :
    v = 0x7E ∧ escapeOctet v = [0x7D, 0x5E] ∨ v = 0x7D ∧ escapeOctet v = [0x7D, 0x5D] ∨
    v ≠ 0x7E ∧ v ≠ 0x7D ∧ escapeOctet v = [v] := by
  obtain ⟨rfl | rfl, heq⟩ | hplain := escapeOctet_cases v
  · exact .inl ⟨rfl, heq⟩
  · exact .inr (.inl ⟨rfl, heq⟩)
  · exact .inr (.inr hplain)

theorem flag_not_mem_escapeOctet (v : Byte) : (0x7E : Byte) ∉ escapeOctet v := by
  obtain ⟨-, heq⟩ | ⟨-, heq⟩ | ⟨hflag, -, heq⟩ := escapeOctet_units v <;> rw [heq]
  · decide
  · decide
  · simpa using hflag.symm

/-- The marker says how long the unit is (R121). -/
theorem head?_escapeOctet_iff (v : Byte) : (escapeOctet v).head? = some 0x7D ↔ (escapeOctet v).length = 2 := by
  obtain ⟨-, heq⟩ | ⟨-, heq⟩ | ⟨-, hmarker, heq⟩ := escapeOctet_units v <;> rw [heq]
  · decide
  · decide
  · simpa using hmarker

/-- The octets that are escaped (R120). -/
def isReserved (x : Byte) : Bool := x == 0x7E || x == 0x7D

theorem isReserved_of_ne {x : Byte} (hflag : x ≠ 0x7E) (hmarker : x ≠ 0x7D) : isReserved x = false :=
  Bool.or_eq_false_iff.2 ⟨beq_eq_false_iff_ne.2 hflag, beq_eq_false_iff_ne.2 hmarker⟩

/-- A reserved octet becomes two, any other stays one. -/
theorem length_escapeOctet (v : Byte) : (escapeOctet v).length = 1 + if isReserved v = true then 1 else 0 := by
  obtain ⟨rfl, heq⟩ | ⟨rfl, heq⟩ | ⟨hflag, hmarker, heq⟩ := escapeOctet_units v <;> rw [heq]
  · rfl
  · rfl
  · simp [isReserved_of_ne hflag hmarker]

/-- Unstuffing emits the octet at the end of its unit, with no marker left. -/
@[simp] theorem unstuffFrom_escapeOctet (v : Byte) : unstuffFrom false (escapeOctet v) = ([v], false) := by
  obtain ⟨rfl, heq⟩ | ⟨rfl, heq⟩ | ⟨-, hmarker, heq⟩ := escapeOctet_units v <;> rw [heq]
  · decide
  · decide
  · simp [unstuffFrom_cons, unescapeStep_plain hmarker]

/-! ### ESC_BYTE -/

/-- R121: only the response changes. -/
theorem exec_escByte (v : Byte) (s : State) :
    exec (.escByte v) s = .next { s with response := .octets (escapeOctet v) } := rfl

/-- Settles O10: the response is the escaped octet, and its unit is one of three. -/
theorem escByteReturnsEscapedOctet : Obligations.EscByteReturnsEscapedOctet :=
  fun v s => ⟨rfl, escapeOctet v, exec_escByte v s, rfl, flag_not_mem_escapeOctet v, head?_escapeOctet_iff v⟩

/-! ### Stuffing a sequence -/

/-- R125: unit by unit, unstuffing gives back the octet. -/
@[simp] theorem unstuff_stuff (s : List Byte) : unstuff (stuff s) = (s, false) := by
  unfold unstuff
  induction s with
  | nil => rfl
  | cons v rest ih => simp [unstuffFrom_append, ih]

theorem flag_not_mem_stuff (s : List Byte) : (0x7E : Byte) ∉ stuff s := by
  simp only [stuff, List.mem_flatMap, not_exists, not_and]
  exact fun v _ => flag_not_mem_escapeOctet v

/-- The units are the octets escaped, in order. -/
theorem stuff_eq_flatten (s : List Byte) : stuff s = (s.map escapeOctet).flatten := List.flatMap_def

/-- A unit is one of the two sequences of the encoder, or an octet that is not the marker (R125). -/
theorem unit_of_mem_map_escapeOctet {s u : List Byte} (h : u ∈ s.map escapeOctet) :
    u = [0x7D, 0x5E] ∨ u = [0x7D, 0x5D] ∨ ∃ x : Byte, x ≠ 0x7D ∧ u = [x] := by
  obtain ⟨v, -, rfl⟩ := List.mem_map.1 h
  obtain ⟨-, heq⟩ | ⟨-, heq⟩ | ⟨-, hmarker, heq⟩ := escapeOctet_units v
  · exact .inl heq
  · exact .inr (.inl heq)
  · exact .inr (.inr ⟨v, hmarker, heq⟩)

/-- R125: each reserved octet adds one. -/
theorem length_stuff (s : List Byte) : (stuff s).length = s.length + s.countP isReserved := by
  induction s with
  | nil => rfl
  | cons v rest ih =>
    rw [stuff_cons, List.length_append, length_escapeOctet, ih, List.countP_cons, List.length_cons]
    omega

/-- R125, with the bounds of the length: at most every octet is reserved. -/
theorem stuff_length_bounds (s : List Byte) : s.length ≤ (stuff s).length ∧ (stuff s).length ≤ 2 * s.length := by
  have hcount : s.countP isReserved ≤ s.length := List.countP_le_length
  rw [length_stuff]
  omega

/-- Settles O11: each law holds of one escaped octet and so of the sequence; the two decodings are evaluated. -/
theorem stuffingLaws : Obligations.StuffingLaws :=
  ⟨unstuff_stuff, flag_not_mem_stuff,
    fun s => ⟨s.map escapeOctet, stuff_eq_flatten s, fun _ => unit_of_mem_map_escapeOctet⟩,
    fun s => ⟨length_stuff s, stuff_length_bounds s⟩, by decide, by decide⟩

end Sys2Proof
end

section
/-! PROOFS. The control byte: packing and unpacking undo each other, and both are the shifts and masks of the rules
(spec/42_frame_codec.md R130 to R132). -/

namespace Sys2Proof

open Machine

/-- R132, the fields: each variant's fields are at most 2 ^ 7 combinations. -/
@[simp] theorem unpackControl_packControl (c : Control) : unpackControl (packControl c) = c := by
  cases c with
  | information nr pf ns => revert nr pf ns; decide
  | supervisory nr pf stype => revert nr pf stype; decide
  | unnumbered pf utype => revert pf utype; decide

/-- R132, the byte. -/
@[simp] theorem packControl_unpackControl (b : Byte) : packControl (unpackControl b) = b := by
  revert b; decide

/-- Settles O13: the two compositions are the identity. -/
theorem controlByteMapIsBijective : Obligations.ControlByteMapIsBijective :=
  ⟨unpackControl_packControl, packControl_unpackControl⟩

/-- The two parts of `utype` that R131 shifts into place and joins are the bits 7 to 5 and 3 to 2 side by side. -/
theorem utype_bits_eq_shifts (c : Byte) :
    c.extractLsb' 5 3 ++ c.extractLsb' 2 2 = (((c >>> 3) &&& 0x1C) ||| ((c >>> 2) &&& 0x03)).setWidth 5 := by
  revert c; decide

theorem unpackControl_of_information {c : Byte} (h0 : c.getLsbD 0 = false) :
    unpackControl c = .information (c.extractLsb' 5 3) (c.extractLsb' 4 1) (c.extractLsb' 1 3) := by
  simp only [unpackControl, h0, if_true]

theorem unpackControl_of_supervisory {c : Byte} (h0 : c.getLsbD 0 = true) (h1 : c.getLsbD 1 = false) :
    unpackControl c = .supervisory (c.extractLsb' 5 3) (c.extractLsb' 4 1) (c.extractLsb' 2 2) := by
  simp only [unpackControl, h0, h1, Bool.true_eq_false, if_false, if_true]

theorem unpackControl_of_unnumbered {c : Byte} (h0 : c.getLsbD 0 = true) (h1 : c.getLsbD 1 = true) :
    unpackControl c = .unnumbered (c.extractLsb' 4 1) (c.extractLsb' 5 3 ++ c.extractLsb' 2 2) := by
  simp only [unpackControl, h0, h1, Bool.true_eq_false, if_false]

/-- Settles O14: packing joins disjoint fields, so it is their OR; unpacking is by the two low bits. -/
theorem controlByteFollowsFormulas : Obligations.ControlByteFollowsFormulas := by
  refine ⟨by decide, by decide, by decide, fun c => ⟨unpackControl_of_information, unpackControl_of_supervisory,
    fun h0 h1 => ?_⟩⟩
  rw [unpackControl_of_unnumbered h0 h1, utype_bits_eq_shifts]

end Sys2Proof
end

section
/-! PROOFS. The encoder: what `ENCODE` and `DECODE` leave, and the length of an encoded frame (spec/42_frame_codec.md
R140, R141, R145). -/

namespace Sys2Proof

open Machine

/-! ### The two operations -/

/-- R140: only the response changes. -/
theorem exec_encode {payload : List Byte} {s : State} (h : payload.length ≤ s.params.txCap) (frame : Frame) :
    exec (.encode frame payload) s = .next { s with response := .octets (encodeFrame frame payload) } := by
  change execEncode frame payload s = _
  rw [execEncode, (payloadAbove_eq_false _ _).2 h, bounded_false, complete_eq]

/-- R145: only the response changes. -/
theorem exec_decode {input : List Byte} {s : State} (h : input.length ≤ s.params.rxCap) :
    exec (.decode input) s = .next { s with response := .decoded (decodeFrame input) } := by
  change execDecode input s = _
  rw [execDecode, (inputAbove_eq_false _ _).2 h, bounded_false, complete_eq]

/-- Settles O15: the response is the encoded frame, whose definition is the layout of R140. -/
theorem encodeReturnsWireFormat : Obligations.EncodeReturnsWireFormat :=
  fun frame _ _ => ⟨rfl, fun h => exec_encode h frame⟩

/-- Settles O17: the response is `decode_frame` of the operand alone. -/
theorem decodeReportsDecodeFrame : Obligations.DecodeReportsDecodeFrame :=
  fun _ _ => ⟨rfl, exec_decode⟩

/-! ### The encoded frame -/

/-- The octets between the two flags before they are escaped: address, control, payload, FCS low, FCS high (R70). -/
def frameContent (frame : Frame) (payload : List Byte) : List Byte :=
  let m := frameMessage frame payload
  m ++ [fcsLow (fcsOf m), fcsHigh (fcsOf m)]

@[simp] theorem length_frameContent (frame : Frame) (payload : List Byte) :
    (frameContent frame payload).length = payload.length + 4 := by
  simp [frameContent, frameMessage]

/-- The FCS octets are escaped like any other (R140 (b)), so the wire format is the stuffed content between two
flags. -/
theorem encodeFrame_eq_stuff_frameContent (frame : Frame) (payload : List Byte) :
    encodeFrame frame payload = Config.flag :: stuff (frameContent frame payload) ++ [Config.flag] := by
  simp [encodeFrame, frameContent]

/-- R141: four octets of overhead, two flags, and one marker for each reserved octet. -/
theorem length_encodeFrame (frame : Frame) (payload : List Byte) :
    (encodeFrame frame payload).length = 6 + payload.length + (frameContent frame payload).countP isReserved := by
  rw [encodeFrame_eq_stuff_frameContent, List.length_append, List.length_cons, List.length_singleton, length_stuff,
    length_frameContent]
  omega

/-- At most every octet of the content is reserved (R81). -/
theorem countP_isReserved_frameContent_le (frame : Frame) (payload : List Byte) :
    (frameContent frame payload).countP isReserved ≤ payload.length + 4 :=
  List.countP_le_length.trans_eq (length_frameContent frame payload)

/-- Settles O16: the length counts the markers, and they are at most as many as the octets of the content. -/
theorem encodedLengthCountsReservedOctets : Obligations.EncodedLengthCountsReservedOctets := by
  intro frame payload m k
  have hlen : (encodeFrame frame payload).length = 6 + payload.length + k := length_encodeFrame frame payload
  have hk : k ≤ payload.length + 4 := countP_isReserved_frameContent_le frame payload
  omega

end Sys2Proof
end

section
/-! PROOFS. The residue: a message followed by its FCS folds to the constant of the receive check
(spec/40_fcs.md R109 (d), R103). -/

namespace Sys2Proof

open Machine

/-- The low octet of the complement indexes the last entry, whatever the accumulator is. -/
theorem fcsUpdate_fcsLow_complement (acc : Word) :
    fcsUpdate acc (fcsLow (acc ^^^ Config.fcsXorOut)) = (acc >>> 8) ^^^ 0x0F78 := by
  have hindex : (acc ^^^ (fcsLow (acc ^^^ Config.fcsXorOut)).setWidth 16) &&& 0xFF = 0xFF := by
    ext i hi
    interval_cases i <;> simp [fcsLow, Config.fcsXorOut]
  rw [fcsUpdate, hindex]
  rfl

/-- The high octet of the complement then indexes an entry that no longer depends on the accumulator either. -/
theorem fcsUpdate_fcsHigh_complement (acc : Word) :
    fcsUpdate ((acc >>> 8) ^^^ 0x0F78) (fcsHigh (acc ^^^ Config.fcsXorOut)) = Config.fcsGood := by
  have hindex : (((acc >>> 8) ^^^ 0x0F78) ^^^ (fcsHigh (acc ^^^ Config.fcsXorOut)).setWidth 16) &&& 0xFF = 0x87 := by
    ext i hi
    interval_cases i <;> simp [fcsHigh, Config.fcsXorOut]
  have hshift : ((acc >>> 8) ^^^ 0x0F78) >>> 8 = 0x0F := by
    ext i hi
    interval_cases i <;> simp
  rw [fcsUpdate, hindex, hshift]
  rfl

/-- R109 (d): the two octets of the complement take any accumulator to the residue. -/
theorem fcsFold_append_fcsOf (m : List Byte) :
    fcsFold Config.fcsInit (m ++ [fcsLow (fcsOf m), fcsHigh (fcsOf m)]) = Config.fcsGood := by
  rw [fcsFold_append, fcsFold_cons, fcsFold_cons, fcsFold_nil, fcsOf, fcsUpdate_fcsLow_complement,
    fcsUpdate_fcsHigh_complement]

end Sys2Proof
end

section
/-! PROOFS. The decoder: every input has one of three shapes, and `decode_frame` answers each (spec/42_frame_codec.md
R146, R147). -/

namespace Sys2Proof

open Machine

/-! ### The two scans of R146 -/

/-- The index after garbage, a run of flags and content. -/
theorem length_garbage_flags_body (g body : List Byte) (n : Nat) :
    (g ++ List.replicate n Config.flag ++ body).length = g.length + n + body.length := by
  rw [List.length_append, List.length_append, List.length_replicate]

/-- The scans go on over octets that are no flag. -/
theorem bne_flag_of_flag_not_mem {s : List Byte} (h : Config.flag ∉ s) : ∀ x ∈ s, (x != Config.flag) = true :=
  fun _ hx => bne_iff_ne.2 (ne_of_mem_of_not_mem hx h)

theorem fromFirstFlag_of_flag_not_mem {input : List Byte} (h : Config.flag ∉ input) : fromFirstFlag input = [] :=
  List.dropWhile_eq_nil_iff.2 (bne_flag_of_flag_not_mem h)

/-- Garbage is dropped. -/
theorem fromFirstFlag_append {g : List Byte} (hg : Config.flag ∉ g) (r : List Byte) :
    fromFirstFlag (g ++ r) = fromFirstFlag r :=
  List.dropWhile_append_of_pos (bne_flag_of_flag_not_mem hg)

theorem fromFirstFlag_flags {n : Nat} (hn : 1 ≤ n) (r : List Byte) :
    fromFirstFlag (List.replicate n Config.flag ++ r) = List.replicate n Config.flag ++ r := by
  obtain ⟨m, rfl⟩ := Nat.exists_eq_add_of_le' hn
  rfl

/-- The opening run is skipped as a whole. -/
theorem fromContent_flags {g r : List Byte} {n : Nat} (hg : Config.flag ∉ g) (hn : 1 ≤ n)
    (hr : r.head? ≠ some Config.flag) : fromContent (g ++ List.replicate n Config.flag ++ r) = r := by
  have hrun : ∀ x ∈ List.replicate n Config.flag, (x == Config.flag) = true := fun x hx =>
    beq_iff_eq.2 (List.eq_of_mem_replicate hx)
  rw [fromContent, List.append_assoc, fromFirstFlag_append hg, fromFirstFlag_flags hn,
    List.dropWhile_append_of_pos hrun]
  cases r with
  | nil => rfl
  | cons x rest => exact List.dropWhile_cons_of_neg fun hx => hr (congrArg some (beq_iff_eq.1 hx))

theorem untilFlag_of_flag_not_mem {body : List Byte} (h : Config.flag ∉ body) : untilFlag body = body :=
  List.takeWhile_eq_self_iff.2 (bne_flag_of_flag_not_mem h)

theorem untilFlag_append_flag {body : List Byte} (h : Config.flag ∉ body) (t : List Byte) :
    untilFlag (body ++ Config.flag :: t) = body := by
  simp [untilFlag, List.takeWhile_append_of_pos (bne_flag_of_flag_not_mem h)]

/-! ### The shapes of an input -/

/-- What R146 tells apart: no flag; garbage, a run of flags and content without an end flag, where the content may be
empty; garbage, a run of flags, content that is not empty, an end flag, and anything. -/
inductive InputShape : List Byte → Prop
  | flagFree {input : List Byte} (h : Config.flag ∉ input) : InputShape input
  | waiting {g body : List Byte} {n : Nat} (hg : Config.flag ∉ g) (hn : 1 ≤ n) (hbody : Config.flag ∉ body) :
    InputShape (g ++ List.replicate n Config.flag ++ body)
  | framed {g body : List Byte} {n : Nat} (t : List Byte) (hg : Config.flag ∉ g) (hn : 1 ≤ n) (hne : body ≠ [])
    (hbody : Config.flag ∉ body) : InputShape (g ++ List.replicate n Config.flag ++ body ++ Config.flag :: t)

/-- Every sequence is a run of flags and a rest that does not begin with one. -/
theorem exists_flags_append (r : List Byte) :
    ∃ m rest, r = List.replicate m Config.flag ++ rest ∧ rest.head? ≠ some Config.flag := by
  induction r with
  | nil => exact ⟨0, [], rfl, by simp⟩
  | cons x r ih =>
    by_cases hx : x = Config.flag
    · obtain ⟨m, rest, rfl, hrest⟩ := ih
      exact ⟨m + 1, rest, by rw [hx]; rfl, hrest⟩
    · exact ⟨0, x :: r, rfl, by simpa using hx⟩

theorem head?_ne_flag_of_not_mem {body : List Byte} (h : Config.flag ∉ body) : body.head? ≠ some Config.flag :=
  fun hhead => h (List.mem_of_mem_head? hhead)

/-- Every input has one of the shapes: split at the first flag, then after its run, then at the next flag. -/
theorem inputShape (input : List Byte) : InputShape input := by
  by_cases hflag : Config.flag ∈ input
  · obtain ⟨g, r, rfl, hg⟩ := List.eq_append_cons_of_mem hflag
    obtain ⟨m, rest, rfl, hrest⟩ := exists_flags_append r
    have hrun : g ++ Config.flag :: (List.replicate m Config.flag ++ rest) =
        g ++ List.replicate (m + 1) Config.flag ++ rest := by simp [List.replicate_succ]
    rw [hrun]
    by_cases hend : Config.flag ∈ rest
    · obtain ⟨body, t, rfl, hbody⟩ := List.eq_append_cons_of_mem hend
      have hne : body ≠ [] := by rintro rfl; exact hrest rfl
      rw [← List.append_assoc]
      exact .framed t hg m.succ_pos hne hbody
    · exact .waiting hg m.succ_pos hend
  · exact .flagFree hflag

/-! ### What `decode_frame` answers -/

/-- Policy row 1. -/
theorem decodeFrame_flagFree {input : List Byte} (h : Config.flag ∉ input) :
    decodeFrame input = noFrame input.length := by
  have hnil := fromFirstFlag_of_flag_not_mem h
  obtain ⟨-, heq⟩ | ⟨hne, -⟩ | ⟨hne, -⟩ := decodeFrame_cases input
  · exact heq
  · exact absurd hnil hne
  · exact absurd hnil hne

theorem fromFirstFlag_ne_nil {g : List Byte} {n : Nat} (hg : Config.flag ∉ g) (hn : 1 ≤ n) (r : List Byte) :
    fromFirstFlag (g ++ List.replicate n Config.flag ++ r) ≠ [] := by
  rw [List.append_assoc, fromFirstFlag_append hg, fromFirstFlag_flags hn]
  simp; omega

/-- Policy row 2. -/
theorem decodeFrame_waiting {g body : List Byte} {n : Nat} (hg : Config.flag ∉ g) (hn : 1 ≤ n)
    (hbody : Config.flag ∉ body) : decodeFrame (g ++ List.replicate n Config.flag ++ body) = noFrame 0 := by
  have hcontent := fromContent_flags hg hn (head?_ne_flag_of_not_mem hbody)
  obtain ⟨hnil, -⟩ | ⟨-, -, heq⟩ | ⟨-, hlen, -⟩ :=
    decodeFrame_cases (g ++ List.replicate n Config.flag ++ body)
  · exact absurd hnil (fromFirstFlag_ne_nil hg hn body)
  · exact heq
  · rw [hcontent, untilFlag_of_flag_not_mem hbody] at hlen
    exact absurd rfl hlen

/-- Policy rows 3 and 4: what is classified is the unstuffed content, at the index of the end flag. -/
theorem decodeFrame_framed {g body : List Byte} {n : Nat} (t : List Byte) (hg : Config.flag ∉ g) (hn : 1 ≤ n)
    (hne : body ≠ []) (hbody : Config.flag ∉ body) :
    decodeFrame (g ++ List.replicate n Config.flag ++ body ++ Config.flag :: t) =
      classify (g.length + n + body.length) (unstuff body).1 (unstuff body).2
        (fcsFold Config.fcsInit (unstuff body).1) := by
  have hhead : (body ++ Config.flag :: t).head? ≠ some Config.flag := by
    rw [List.head?_append_of_ne_nil _ hne]; exact head?_ne_flag_of_not_mem hbody
  have hcontent := fromContent_flags hg hn hhead
  have huntil := untilFlag_append_flag hbody t
  rw [List.append_assoc]
  obtain ⟨hnil, -⟩ | ⟨-, hlen, -⟩ | ⟨-, -, heq⟩ :=
    decodeFrame_cases (g ++ List.replicate n Config.flag ++ (body ++ Config.flag :: t))
  · exact absurd hnil (fromFirstFlag_ne_nil hg hn _)
  · rw [hcontent, huntil, List.length_append] at hlen
    simp at hlen
  · rw [heq, hcontent, huntil, length_garbage_flags_body, Nat.add_sub_cancel]

/-! ### Classification -/

/-- The three conditions of `valid` (R147). -/
theorem frameValid_iff (n : Nat) (pending : Bool) (acc : Word) :
    frameValid n pending acc = true ↔ 4 ≤ n ∧ pending = false ∧ acc = Config.fcsGood := by
  simp [frameValid, residueGood, and_assoc]

theorem classify_of_valid {e : Nat} {d : List Byte} {pending : Bool} {acc : Word}
    (h : 4 ≤ d.length ∧ pending = false ∧ acc = Config.fcsGood) :
    classify e d pending acc = ⟨e, d.length - 4, frameOfContent d, true, (d.drop 2).take (d.length - 4)⟩ :=
  if_pos ((frameValid_iff _ _ _).2 h)

theorem classify_of_not_valid {e : Nat} {d : List Byte} {pending : Bool} {acc : Word}
    (h : ¬ (4 ≤ d.length ∧ pending = false ∧ acc = Config.fcsGood)) :
    classify e d pending acc = ⟨e, d.length - 2, frameOfContent d, false, d.drop 2⟩ :=
  if_neg fun hvalid => h ((frameValid_iff _ _ _).1 hvalid)

/-- Settles O18: the shapes are exhaustive, with the waiting one split by whether content has begun, and each has its
answer. -/
theorem decodeFrameFollowsPolicyTable : Obligations.DecodeFrameFollowsPolicyTable := by
  refine ⟨fun input => ?_, fun _ => decodeFrame_flagFree, fun _ _ _ => decodeFrame_waiting,
    fun g n body t hg hn hne hbody => ⟨fun hvalid => ?_, fun hvalid => ?_⟩⟩
  · cases inputShape input with
    | flagFree h => exact .inl h
    | @waiting g body n hg hn hbody =>
      by_cases hne : body = []
      · exact .inr (.inl ⟨g, n, hg, hn, by rw [hne, List.append_nil]; rfl⟩)
      · exact .inr (.inr (.inl ⟨g, n, body, hg, hn, hne, hbody, rfl⟩))
    | @framed g body n t hg hn hne hbody => exact .inr (.inr (.inr ⟨g, n, body, t, hg, hn, hne, hbody, rfl⟩))
  · exact (decodeFrame_framed t hg hn hne hbody).trans (classify_of_valid hvalid)
  · exact (decodeFrame_framed t hg hn hne hbody).trans (classify_of_not_valid hvalid)

end Sys2Proof
end

section
/-! PROOFS. The round trip: decoding gives back an encoded frame (spec/42_frame_codec.md R150). -/

namespace Sys2Proof

open Machine

@[simp] theorem frameOf_address_controlByte (frame : Frame) : frameOf frame.address frame.controlByte = frame := by
  simp [frameOf, Frame.controlByte]

theorem fcsFold_frameContent (frame : Frame) (payload : List Byte) :
    fcsFold Config.fcsInit (frameContent frame payload) = Config.fcsGood := fcsFold_append_fcsOf _

/-- The content of an encoded frame passes the receive check, and the frame and payload are read back from it. -/
theorem classify_frameContent (e : Nat) (frame : Frame) (payload : List Byte) :
    classify e (frameContent frame payload) false (fcsFold Config.fcsInit (frameContent frame payload)) =
      ⟨e, payload.length, some frame, true, payload⟩ := by
  have hlen : (frameContent frame payload).length = payload.length + 4 := length_frameContent frame payload
  rw [classify_of_valid ⟨by omega, rfl, fcsFold_frameContent frame payload⟩, hlen]
  simp [frameContent, frameMessage]

/-- Settles O19: an encoded frame is the framed shape with one opening flag, and unstuffing its content undoes the
stuffing. -/
theorem decodeInvertsEncode : Obligations.DecodeInvertsEncode := by
  intro frame payload g t hg
  have hne : stuff (frameContent frame payload) ≠ [] := List.ne_nil_of_length_pos <| by
    have := (stuff_length_bounds (frameContent frame payload)).1
    rw [length_frameContent] at this
    omega
  have hshape : g ++ encodeFrame frame payload ++ t =
      g ++ List.replicate 1 Config.flag ++ stuff (frameContent frame payload) ++ Config.flag :: t := by
    simp [encodeFrame_eq_stuff_frameContent]
  have hend : g.length + (encodeFrame frame payload).length - 1 =
      g.length + 1 + (stuff (frameContent frame payload)).length := by
    rw [encodeFrame_eq_stuff_frameContent]; simp; omega
  rw [hshape, decodeFrame_framed t hg le_rfl hne (flag_not_mem_stuff _), unstuff_stuff, classify_frameContent, hend]

end Sys2Proof
end

section
/-! PROOFS. Progress: what `decode_frame` consumes (spec/42_frame_codec.md R152). -/

namespace Sys2Proof

open Machine

/-- Each raw octet emits at most one (R124). -/
theorem length_unstuffFrom_le (pending : Bool) (r : List Byte) : (unstuffFrom pending r).1.length ≤ r.length := by
  induction r generalizing pending with
  | nil => rfl
  | cons x rest ih =>
    rw [unstuffFrom_cons, List.length_append, List.length_cons, Nat.add_comm]
    exact Nat.add_le_add (ih _) (Option.length_toList_le)

/-- A frame is there once the control octet was reached (R147 (d)). -/
theorem two_le_length_of_frameOfContent_ne_none {d : List Byte} (h : frameOfContent d ≠ none) : 2 ≤ d.length := by
  match d with
  | [] => exact absurd rfl h
  | [_] => exact absurd rfl h
  | _ :: _ :: _ => simp

/-- With a frame, the end flag stands after a flag and two raw octets at least (R152). -/
theorem two_le_length_of_frame {body : List Byte} (h : frameOfContent (unstuff body).1 ≠ none) : 2 ≤ body.length :=
  (two_le_length_of_frameOfContent_ne_none h).trans (length_unstuffFrom_le false body)

/-- R152, when nothing is consumed. -/
theorem decodeFrame_consumed_eq_zero_iff (input : List Byte) :
    (decodeFrame input).consumed = 0 ↔
      input = [] ∨ ∃ g n body, Config.flag ∉ g ∧ 1 ≤ n ∧ Config.flag ∉ body ∧
        input = g ++ List.replicate n Config.flag ++ body := by
  constructor
  · intro hzero
    cases inputShape input with
    | flagFree h =>
      rw [decodeFrame_flagFree h, noFrame_consumed] at hzero
      exact .inl (List.eq_nil_of_length_eq_zero hzero)
    | @waiting g body n hg hn hbody => exact .inr ⟨g, n, body, hg, hn, hbody, rfl⟩
    | framed t hg hn hne hbody =>
      rw [decodeFrame_framed t hg hn hne hbody, classify_consumed] at hzero
      omega
  · rintro (rfl | ⟨g, n, body, hg, hn, hbody, rfl⟩)
    · rfl
    · rw [decodeFrame_waiting hg hn hbody, noFrame_consumed]

/-- R152, the upper bound. -/
theorem decodeFrame_consumed_le_length (input : List Byte) : (decodeFrame input).consumed ≤ input.length := by
  cases inputShape input with
  | flagFree h => rw [decodeFrame_flagFree h, noFrame_consumed]
  | waiting hg hn hbody => rw [decodeFrame_waiting hg hn hbody, noFrame_consumed]; exact Nat.zero_le _
  | framed t hg hn hne hbody =>
    rw [decodeFrame_framed t hg hn hne hbody, classify_consumed, List.length_append, length_garbage_flags_body]
    exact Nat.le_add_right _ _

/-- R152, the lower bound with a frame. -/
theorem three_le_consumed_of_frame {input : List Byte} (hframe : (decodeFrame input).frame ≠ none) :
    3 ≤ (decodeFrame input).consumed := by
  cases inputShape input with
  | flagFree h => rw [decodeFrame_flagFree h] at hframe; exact absurd rfl hframe
  | waiting hg hn hbody => rw [decodeFrame_waiting hg hn hbody] at hframe; exact absurd rfl hframe
  | framed t hg hn hne hbody =>
    rw [decodeFrame_framed t hg hn hne hbody] at hframe ⊢
    rw [classify_frame] at hframe
    rw [classify_consumed]
    have hlen := two_le_length_of_frame hframe
    omega

/-- R152, R147 (c): the end flag is not consumed. -/
theorem head?_drop_consumed {input : List Byte} (hflag : Config.flag ∈ input)
    (hpos : 1 ≤ (decodeFrame input).consumed) :
    (input.drop (decodeFrame input).consumed).head? = some Config.flag := by
  cases inputShape input with
  | flagFree h => exact absurd hflag h
  | waiting hg hn hbody =>
    rw [decodeFrame_waiting hg hn hbody, noFrame_consumed] at hpos
    exact absurd hpos (by decide)
  | framed t hg hn hne hbody =>
    rw [decodeFrame_framed t hg hn hne hbody, classify_consumed, ← length_garbage_flags_body, List.drop_left,
      List.head?_cons]

/-- Settles O21: each part follows from what is consumed in each shape of the input. -/
theorem decodeConsumptionMakesProgress : Obligations.DecodeConsumptionMakesProgress :=
  ⟨decodeFrame_consumed_eq_zero_iff, decodeFrame_consumed_le_length, fun _ => three_le_consumed_of_frame,
    fun _ => head?_drop_consumed⟩

end Sys2Proof
end

section
/-! PROOFS. The byte-serial machine is the two-phase decoder (spec/42_frame_codec.md R148): the parser's state after
each part of a shape. -/

namespace Sys2Proof

open Machine

/-! ### The parser through each part of an input -/

theorem flag_not_mem_cons {x : Byte} {s : List Byte} :
    Config.flag ∉ x :: s ↔ x ≠ Config.flag ∧ Config.flag ∉ s := by
  rw [List.mem_cons, not_or, ne_comm]

/-- An octet that ends no frame takes the loop one parser further. -/
theorem scan_run_cons {sc sc' : Scan} {x : Byte} (h : sc.octet x = (sc', none)) (rest : List Byte) :
    sc.run (x :: rest) = sc'.run rest := by
  simp only [Scan.run, h]

/-- `HUNT` ignores garbage. -/
theorem scan_run_garbage (i : Nat) {g : List Byte} (hg : Config.flag ∉ g) (r : List Byte) :
    ({ Scan.start with index := i } : Scan).run (g ++ r) =
      ({ Scan.start with index := i + g.length } : Scan).run r := by
  induction g generalizing i with
  | nil => rfl
  | cons x g ih =>
    obtain ⟨hx, hg⟩ := flag_not_mem_cons.1 hg
    rw [List.cons_append, scan_run_cons (scan_octet_hunt rfl hx), ih _ hg, List.length_cons]
    simp only [Nat.add_assoc, Nat.add_comm 1]

/-- `OPEN` stays through a run of flags. -/
theorem scan_run_open_flags (i n : Nat) (r : List Byte) :
    ({ Scan.start with phase := .opening, index := i } : Scan).run (List.replicate n Config.flag ++ r) =
      ({ Scan.start with phase := .opening, index := i + n } : Scan).run r := by
  induction n generalizing i with
  | zero => rfl
  | succ n ih => exact (ih (i + 1)).trans (by rw [Nat.add_assoc, Nat.add_comm 1])

/-- The first flag takes `HUNT` to `OPEN`, so after garbage and a run of flags the parser is in `OPEN`. -/
theorem scan_run_opening {g : List Byte} {n : Nat} (hg : Config.flag ∉ g) (hn : 1 ≤ n) (r : List Byte) :
    Scan.start.run (g ++ List.replicate n Config.flag ++ r) =
      ({ Scan.start with phase := .opening, index := g.length + n } : Scan).run r := by
  obtain ⟨m, rfl⟩ := Nat.exists_eq_add_of_le' hn
  rw [List.append_assoc]
  calc Scan.start.run (g ++ (List.replicate (m + 1) Config.flag ++ r))
      = ({ Scan.start with index := 0 + g.length } : Scan).run (List.replicate (m + 1) Config.flag ++ r) :=
        scan_run_garbage 0 hg _
    _ = ({ Scan.start with phase := .opening, index := 0 + g.length + 1 } : Scan).run
          (List.replicate m Config.flag ++ r) := rfl
    _ = ({ Scan.start with phase := .opening, index := g.length + (m + 1) } : Scan).run r := by
        rw [scan_run_open_flags, Nat.zero_add, Nat.add_assoc, Nat.add_comm 1]

/-- The parser in `CONTENT` at index `i` when it has taken the raw octets `seen`: its registers are the two results of
unstuffing them, and the fold. -/
def scanAfter (i : Nat) (seen : List Byte) : Scan where
  phase := .content
  index := i
  pending := (unstuff seen).2
  acc := fcsFold Config.fcsInit (unstuff seen).1
  decoded := (unstuff seen).1

/-- `take` is the unescape step on the registers, whether or not it emits an octet. -/
theorem scan_take_eq (sc : Scan) (x : Byte) :
    sc.take x =
      { sc with
        pending := (unescapeStep sc.pending x).1
        acc := fcsFold sc.acc (unescapeStep sc.pending x).2.toList
        decoded := sc.decoded ++ (unescapeStep sc.pending x).2.toList } := by
  unfold Scan.take
  obtain ⟨pending, _ | y⟩ := unescapeStep sc.pending x
  · simp
  · rfl

/-- One raw octet of content is one octet more seen. -/
theorem scanAfter_octet (i : Nat) (seen : List Byte) {x : Byte} (hx : x ≠ Config.flag) :
    (scanAfter i seen).octet x = (scanAfter (i + 1) (seen ++ [x]), none) := by
  rw [scan_octet_content rfl hx, scan_take_eq]
  simp [scanAfter, Scan.advance, unstuff, unstuffFrom_append, unstuffFrom_cons]

/-- The parser through flag-free content. -/
theorem scanAfter_run (i : Nat) (seen : List Byte) {body : List Byte} (hbody : Config.flag ∉ body) (r : List Byte) :
    (scanAfter i seen).run (body ++ r) = (scanAfter (i + body.length) (seen ++ body)).run r := by
  induction body generalizing i seen with
  | nil => simp
  | cons x body ih =>
    obtain ⟨hx, hbody⟩ := flag_not_mem_cons.1 hbody
    rw [List.cons_append, scan_run_cons (scanAfter_octet i seen hx), ih _ _ hbody, List.length_cons,
      List.append_assoc, List.singleton_append, Nat.add_assoc, Nat.add_comm 1]

/-- The first octet of content is taken with the registers set anew. -/
theorem scan_run_body (i : Nat) {body : List Byte} (hne : body ≠ []) (hbody : Config.flag ∉ body) (r : List Byte) :
    ({ Scan.start with phase := .opening, index := i } : Scan).run (body ++ r) =
      (scanAfter (i + body.length) body).run r := by
  obtain ⟨x, rest, rfl⟩ := List.exists_cons_of_ne_nil hne
  obtain ⟨hx, -⟩ := flag_not_mem_cons.1 hbody
  calc ({ Scan.start with phase := .opening, index := i } : Scan).run (x :: (rest ++ r))
      = ((scanAfter i []).take x).advance.run (rest ++ r) := scan_run_cons (scan_octet_opening rfl hx) _
    _ = (scanAfter i []).run (x :: (rest ++ r)) := (scan_run_cons (scan_octet_content rfl hx) _).symm
    _ = (scanAfter (i + (x :: rest).length) (x :: rest)).run r := scanAfter_run i [] hbody r

/-! ### What the machine answers, shape by shape -/

theorem decodeFrameSerial_flagFree {input : List Byte} (h : Config.flag ∉ input) :
    decodeFrameSerial input = noFrame input.length :=
  calc Scan.start.run input
      = Scan.start.run (input ++ []) := by rw [List.append_nil]
    _ = noFrame (0 + input.length) := scan_run_garbage 0 h []
    _ = noFrame input.length := by rw [Nat.zero_add]

/-- The input ends in `OPEN` or in `CONTENT`. -/
theorem decodeFrameSerial_waiting {g body : List Byte} {n : Nat} (hg : Config.flag ∉ g) (hn : 1 ≤ n)
    (hbody : Config.flag ∉ body) : decodeFrameSerial (g ++ List.replicate n Config.flag ++ body) = noFrame 0 := by
  rw [decodeFrameSerial, scan_run_opening hg hn]
  by_cases hne : body = []
  · rw [hne]; rfl
  · rw [← List.append_nil body, scan_run_body _ hne hbody]; rfl

theorem decodeFrameSerial_framed {g body : List Byte} {n : Nat} (t : List Byte) (hg : Config.flag ∉ g) (hn : 1 ≤ n)
    (hne : body ≠ []) (hbody : Config.flag ∉ body) :
    decodeFrameSerial (g ++ List.replicate n Config.flag ++ body ++ Config.flag :: t) =
      classify (g.length + n + body.length) (unstuff body).1 (unstuff body).2
        (fcsFold Config.fcsInit (unstuff body).1) := by
  rw [decodeFrameSerial, List.append_assoc, scan_run_opening hg hn, scan_run_body _ hne hbody]
  rfl

/-- Settles O20: on each shape of the input the machine answers what the two phases answer. -/
theorem serialParserEqualsDecoder : Obligations.SerialParserEqualsDecoder := by
  intro input
  cases inputShape input with
  | flagFree h => rw [decodeFrameSerial_flagFree h, decodeFrame_flagFree h]
  | waiting hg hn hbody => rw [decodeFrameSerial_waiting hg hn hbody, decodeFrame_waiting hg hn hbody]
  | framed t hg hn hne hbody =>
    rw [decodeFrameSerial_framed t hg hn hne hbody, decodeFrame_framed t hg hn hne hbody]

end Sys2Proof
end

section
/-! PROOFS. The Receiver: what a write, the loop of a frame read, a reset and a status leave (spec/43_receiver.md R161
to R164). -/

namespace Sys2Proof

open Machine

/-! ### RX_WRITE -/

/-- R161, when the bytes fit. -/
theorem exec_rxWrite_of_fits {bytes : List Byte} {s : State} (h : bytes.length ≤ s.params.rxCap - s.rxLen) :
    exec (.rxWrite bytes) s =
      .next { s with rxBuf := Memory.ofBytes (s.rxBuf.bytes ++ bytes), response := .done } := by
  obtain ⟨hover, -⟩ | ⟨-, heq⟩ := execRxWrite_cases bytes s
  · exact absurd hover h.not_gt
  · exact heq

/-- R161, when they do not. -/
theorem exec_rxWrite_of_overflows {bytes : List Byte} {s : State} (h : s.params.rxCap - s.rxLen < bytes.length) :
    exec (.rxWrite bytes) s = .next { s with response := .error .rxCapacity } := by
  obtain ⟨-, heq⟩ | ⟨hfit, -⟩ := execRxWrite_cases bytes s
  · exact heq
  · exact absurd h hfit.not_gt

/-- Nothing fits any buffer, and appending it to a canonical one leaves the same cells. -/
theorem exec_rxWrite_nil {s : State} (hwf : s.rxBuf.wf = true) :
    exec (.rxWrite []) s = .next { s with response := .done } := by
  rw [exec_rxWrite_of_fits (Nat.zero_le _), List.append_nil, ofBytes_bytes hwf]

/-- Settles O23: the empty write, the write that fits, and the one that does not. -/
theorem rxWriteAppendsOrChangesNothing : Obligations.RxWriteAppendsOrChangesNothing :=
  ⟨fun _ => exec_rxWrite_nil, fun _ _ => ⟨rfl, exec_rxWrite_of_fits, exec_rxWrite_of_overflows⟩⟩

/-! ### The loop of RX_READ_FRAME, pass by pass -/

/-- What a pass leaves when it consumes something (R56). -/
theorem readPass_snd_of_pos {m : Memory} (h : 1 ≤ (decodeFrame m.bytes).consumed) :
    (readPass m).2 = Memory.ofBytes (m.bytes.drop (decodeFrame m.bytes).consumed) :=
  (if_pos h).trans (consumeFront_eq _ _)

/-- A pass that consumes nothing leaves the buffer cell for cell, canonical or not. -/
theorem readPass_snd_of_zero {m : Memory} (h : (decodeFrame m.bytes).consumed = 0) : (readPass m).2 = m :=
  if_neg h.not_gt

/-- A frame ends the loop. -/
theorem readLoop_of_frame {m : Memory} (hframe : (decodeFrame m.bytes).frame ≠ none) (fuel : Nat) :
    readLoop (fuel + 1) m = (some (decodeFrame m.bytes), (readPass m).2) := by
  obtain ⟨f, hf⟩ := Option.ne_none_iff_exists'.1 hframe
  simp only [readLoop, readPass_result, hf]

/-- So does a pass without progress. -/
theorem readLoop_of_waiting {m : Memory} (hnone : (decodeFrame m.bytes).frame = none)
    (hzero : (decodeFrame m.bytes).consumed = 0) (fuel : Nat) : readLoop (fuel + 1) m = (none, m) := by
  simp only [readLoop, readPass_result, hnone, hzero, if_true, readPass_snd_of_zero hzero]

/-- Octets dropped without a frame: the loop goes round on what is left. -/
theorem readLoop_of_dropped {m : Memory} (hnone : (decodeFrame m.bytes).frame = none)
    (hpos : 1 ≤ (decodeFrame m.bytes).consumed) (fuel : Nat) :
    readLoop (fuel + 1) m = readLoop fuel (readPass m).2 := by
  simp only [readLoop, readPass_result, hnone]
  exact if_neg (Nat.pos_iff_ne_zero.1 hpos)

/-- A pass that consumes something shortens the buffer (R165). -/
theorem length_readPass_lt {m : Memory} (hpos : 1 ≤ (decodeFrame m.bytes).consumed) :
    (readPass m).2.length < m.length := by
  have hle := decodeFrame_consumed_le_length m.bytes
  rw [length_bytes] at hle
  rw [← length_bytes, readPass_bytes, List.length_drop, length_bytes]
  omega

/-- More fuel than held bytes never runs out: any two such amounts give the same answer. -/
theorem readLoop_eq_of_length_lt {fuel fuel' : Nat} {m : Memory} (h : m.length < fuel) (h' : m.length < fuel') :
    readLoop fuel m = readLoop fuel' m := by
  induction fuel generalizing fuel' m with
  | zero => exact absurd h (Nat.not_lt_zero _)
  | succ fuel ih =>
    obtain ⟨fuel', rfl⟩ := Nat.exists_eq_add_one_of_ne_zero (Nat.ne_zero_of_lt h')
    by_cases hframe : (decodeFrame m.bytes).frame = none
    · obtain hzero | hpos := Nat.eq_zero_or_pos (decodeFrame m.bytes).consumed
      · rw [readLoop_of_waiting hframe hzero, readLoop_of_waiting hframe hzero]
      · have hlt := length_readPass_lt hpos
        rw [readLoop_of_dropped hframe hpos, readLoop_of_dropped hframe hpos]
        exact ih (by omega) (by omega)
    · rw [readLoop_of_frame hframe, readLoop_of_frame hframe]

/-! ### RX_READ_FRAME -/

/-- R147: `payload_length` is the length of the payload, with a frame or without. -/
theorem decodeFrame_payload_length (input : List Byte) :
    (decodeFrame input).payload.length = (decodeFrame input).payloadLength := by
  obtain ⟨-, heq⟩ | ⟨-, -, heq⟩ | ⟨-, -, heq⟩ := decodeFrame_cases input <;> rw [heq]
  · rfl
  · rfl
  · exact classify_payload_length _ _ _ _

/-- `RX_PAY` holds the payload a frame was returned with. -/
theorem memRead_ofBytes_payload (input : List Byte) :
    memRead (Memory.ofBytes (decodeFrame input).payload) 0 (decodeFrame input).payloadLength =
      (decodeFrame input).payload := by
  rw [memRead, bytes_ofBytes, List.drop_zero, ← decodeFrame_payload_length, List.take_length]

/-- R162, a frame; it has consumed something (R152). -/
theorem exec_rxReadFrame_of_frame {s : State} (hframe : (decodeFrame s.rxBuf.bytes).frame ≠ none) :
    exec .rxReadFrame s =
      .next { s with
        rxBuf := Memory.ofBytes (s.rxBuf.bytes.drop (decodeFrame s.rxBuf.bytes).consumed)
        rxPay := Memory.ofBytes (decodeFrame s.rxBuf.bytes).payload
        response := .frameRead (decodeFrame s.rxBuf.bytes).payloadLength (decodeFrame s.rxBuf.bytes).frame
          (decodeFrame s.rxBuf.bytes).valid } := by
  have hpos : 1 ≤ (decodeFrame s.rxBuf.bytes).consumed := le_trans (by decide) (three_le_consumed_of_frame hframe)
  change execRxReadFrame s = _
  simp only [execRxReadFrame, readLoop_of_frame hframe, readPass_snd_of_pos hpos, complete_eq]

/-- R162, no frame and no progress. -/
theorem exec_rxReadFrame_of_waiting {s : State} (hnone : (decodeFrame s.rxBuf.bytes).frame = none)
    (hzero : (decodeFrame s.rxBuf.bytes).consumed = 0) :
    exec .rxReadFrame s = .next { s with rxPay := Memory.unspecified, response := .frameRead 0 none false } := by
  change execRxReadFrame s = _
  simp only [execRxReadFrame, readLoop_of_waiting hnone hzero, complete_eq]

/-- R162, octets dropped: the pass has used one of the fuel, and what is left is shorter by one at least, so both loops
have enough. -/
theorem exec_rxReadFrame_of_dropped {s : State} (hnone : (decodeFrame s.rxBuf.bytes).frame = none)
    (hpos : 1 ≤ (decodeFrame s.rxBuf.bytes).consumed) :
    exec .rxReadFrame s =
      exec .rxReadFrame
        { s with rxBuf := Memory.ofBytes (s.rxBuf.bytes.drop (decodeFrame s.rxBuf.bytes).consumed) } := by
  have hloop := (readLoop_of_dropped hnone hpos s.rxBuf.length).trans
    (readLoop_eq_of_length_lt (length_readPass_lt hpos) (Nat.lt_succ_self _))
  rw [← readPass_snd_of_pos hpos]
  change execRxReadFrame s = execRxReadFrame _
  simp only [execRxReadFrame, rxLen_eq, hloop]

/-- Settles O25: the three outcomes of one pass. -/
theorem rxReadFrameFollowsLoop : Obligations.RxReadFrameFollowsLoop :=
  ⟨rfl, fun s =>
    ⟨fun hframe => ⟨_, memRead_ofBytes_payload s.rxBuf.bytes, exec_rxReadFrame_of_frame hframe⟩,
      fun hnone hzero => ⟨_, exec_rxReadFrame_of_waiting hnone hzero⟩, exec_rxReadFrame_of_dropped⟩⟩

/-! ### RX_RESET and RX_STATUS -/

/-- R163: nothing is held afterwards. -/
theorem exec_rxReset (s : State) :
    exec .rxReset s =
      .next { s with rxBuf := Memory.unspecified, rxPay := Memory.unspecified, response := .done } := rfl

/-- R164: only the response changes. -/
theorem exec_rxStatus (s : State) : exec .rxStatus s = .next { s with response := .rxLength s.rxLen } := rfl

/-- With nothing held there is no frame and nothing to consume (R162). -/
theorem exec_rxReadFrame_of_empty {s : State} (hempty : s.rxBuf.bytes = []) :
    exec .rxReadFrame s = .next { s with rxPay := Memory.unspecified, response := .frameRead 0 none false } := by
  apply exec_rxReadFrame_of_waiting <;> rw [hempty] <;> rfl

/-- Settles O29: the state `RX_RESET` leaves, the read of its empty buffer, and the status. -/
theorem rxResetEmptiesAndStatusReports : Obligations.RxResetEmptiesAndStatusReports :=
  ⟨rfl, rfl, fun s =>
    ⟨⟨_, exec_rxReset s, length_unspecified, rfl, rfl, ⟨rfl, rfl, rfl⟩, ⟨rfl, rfl⟩, _,
      exec_rxReadFrame_of_empty bytes_unspecified, rfl⟩, exec_rxStatus s⟩⟩

end Sys2Proof
end

section
/-! PROOFS. The pending-frame queue: where an item is inserted, which one is found, and what a removal leaves
(spec/44_sender.md R182, R190, R191, spec/20_memory.md R57). -/

namespace Sys2Proof

open Machine

/-! ### Insertion -/

/-- In service order, once one item is of smaller priority than `p`, so are all behind it. -/
theorem prio_lt_of_mem_dropWhile {q : List Item} {p : Nat} (hq : ServiceOrdered q) :
    ∀ t ∈ q.dropWhile (fun t => decide (p ≤ t.prio)), t.prio < p := by
  induction q with
  | nil => exact List.forall_mem_nil _
  | cons a rest ih =>
    obtain ⟨hhead, hrest⟩ := List.pairwise_cons.1 hq
    by_cases hp : p ≤ a.prio
    · rw [List.dropWhile_cons_of_pos (by simpa using hp)]
      exact ih hrest
    · rw [List.dropWhile_cons_of_neg (by simpa using hp)]
      have ha : a.prio < p := Nat.lt_of_not_le hp
      exact List.forall_mem_cons.2 ⟨ha, fun t ht => (hhead t ht).trans_lt ha⟩

/-- The items an insertion goes behind are of at least its priority (R182). -/
theorem le_prio_of_mem_takeWhile {q : List Item} {p : Nat} {t : Item}
    (ht : t ∈ q.takeWhile (fun t => decide (p ≤ t.prio))) : p ≤ t.prio := by
  simpa using List.mem_takeWhile_imp ht

/-- R182 keeps R31: the new item fits both halves between which it is put. -/
theorem serviceOrdered_insertItem {q : List Item} (hq : ServiceOrdered q) (it : Item) :
    ServiceOrdered (insertItem q it) := by
  refine List.pairwise_append.2 ⟨hq.sublist (List.takeWhile_sublist _), List.pairwise_cons.2
    ⟨fun t ht => (prio_lt_of_mem_dropWhile hq t ht).le, hq.sublist (List.dropWhile_sublist _)⟩, ?_⟩
  intro a ha
  have hle : it.prio ≤ a.prio := le_prio_of_mem_takeWhile ha
  exact List.forall_mem_cons.2 ⟨hle, fun b hb => (prio_lt_of_mem_dropWhile hq b hb).le.trans hle⟩

/-- Settles O32: the queue is cut where the priorities fall below that of the new item. -/
theorem insertionKeepsServiceOrder : Obligations.InsertionKeepsServiceOrder :=
  fun _ it hq => ⟨serviceOrdered_insertItem hq it, _, _, List.takeWhile_append_dropWhile.symm, rfl,
    fun _ => le_prio_of_mem_takeWhile, prio_lt_of_mem_dropWhile hq⟩

/-! ### Removal -/

/-- R57: the bytes before the cut stay where they are. -/
theorem read_cut_of_lt {m : Memory} (hwf : m.wf = true) {o l a : Nat} (ho : o ≤ m.length) (ha : a < o) :
    (cut m o l).read a = m.read a := by
  have hlt : a < (m.bytes.take o).length := by
    rw [List.length_take, length_bytes]
    omega
  rw [read_of_wf (wf_cut m o l), read_of_wf hwf, bytes_cut, List.getElem?_append_left hlt,
    List.getElem?_take_of_lt ha]

/-- R57: what stood behind the cut has moved down by its length. -/
theorem read_cut_of_le {m : Memory} (hwf : m.wf = true) {o l a : Nat} (ho : o ≤ m.length) (ha : o ≤ a) :
    (cut m o l).read a = m.read (a + l) := by
  have hlen : (m.bytes.take o).length = o := by rw [List.length_take, length_bytes, min_eq_left ho]
  rw [read_of_wf (wf_cut m o l), read_of_wf hwf, bytes_cut, List.getElem?_append_right (hlen.trans_le ha), hlen,
    List.getElem?_drop]
  congr 1
  omega

/-- R191: an item behind the removed payload moves down with its own. -/
theorem afterRemoval_of_behind {r t : Item} (hlen : 1 ≤ r.len) (hoff : r.off < t.off) :
    Item.afterRemoval r t = { t with off := t.off - r.len } := if_pos ⟨hlen, hoff⟩

/-- R191: an item that is not behind the removed payload stays. -/
theorem afterRemoval_of_before {r t : Item} (hoff : t.off ≤ r.off) : Item.afterRemoval r t = t :=
  if_neg fun h => hoff.not_gt h.2

/-- Settles O36: a removal cuts the payload out of `TX_BUF` and corrects each offset. -/
theorem removalShiftsLaterBytes : Obligations.RemovalShiftsLaterBytes := by
  refine ⟨fun j s r hwf hj hend => ?_, fun r t => ⟨fun h => h.elim (afterRemoval_of_len_zero · t)
    afterRemoval_of_before, afterRemoval_of_behind⟩⟩
  have hoff : r.off ≤ s.txBuf.length := (Nat.le_add_right _ _).trans hend
  rw [removeItem_some hj]
  exact ⟨length_cut hend, fun _ => read_cut_of_lt hwf hoff, fun _ => read_cut_of_le hwf hoff, rfl⟩

/-! ### The item a removal takes -/

/-- A key of `w` bits and more equals a field of `w` bits, as numbers, when its low bits are the field and the others
are zero. -/
theorem toNat_eq_iff_extract {w v : Nat} (field : BitVec w) (key : BitVec (w + v)) :
    field.toNat = key.toNat ↔ field = key.extractLsb' 0 w ∧ key.extractLsb' w v = 0 := by
  have hhigh : (key.extractLsb' w v).toNat = key.toNat / 2 ^ w := by
    rw [BitVec.extractLsb'_toNat, Nat.shiftRight_eq_div_pow,
      Nat.mod_eq_of_lt (Nat.div_lt_of_lt_mul (Nat.pow_add 2 w v ▸ key.isLt))]
  have hlow : (key.extractLsb' 0 w).toNat = key.toNat % 2 ^ w := BitVec.extractLsb'_toNat ..
  rw [BitVec.toNat_eq, BitVec.toNat_eq, hlow, hhigh, BitVec.ofNat_eq_ofNat, BitVec.toNat_zero,
    Nat.div_eq_zero_iff_lt (Nat.two_pow_pos w)]
  refine ⟨fun h => ?_, fun ⟨hmod, hlt⟩ => hmod.trans (Nat.mod_eq_of_lt hlt)⟩
  rw [← h]
  exact ⟨(Nat.mod_eq_of_lt field.isLt).symm, field.isLt⟩

/-- R190 for `ns`: the key has two bits above the field. -/
theorem keyMatches_information (key : BitVec 5) (nr : BitVec 3) (pf : BitVec 1) (ns : BitVec 3) :
    keyMatches .information key (.information nr pf ns) = true ↔ ns.toNat = key.toNat := by
  rw [toNat_eq_iff_extract (v := 2) ns key, keyMatches, Bool.and_eq_true, beq_iff_eq, beq_iff_eq]

/-- R190 for `stype`: the key has three bits above the field. -/
theorem keyMatches_supervisory (key : BitVec 5) (nr : BitVec 3) (pf : BitVec 1) (stype : BitVec 2) :
    keyMatches .supervisory key (.supervisory nr pf stype) = true ↔ stype.toNat = key.toNat := by
  rw [toNat_eq_iff_extract (v := 3) stype key, keyMatches, Bool.and_eq_true, beq_iff_eq, beq_iff_eq]

/-- R190 for `utype`: the key is as wide as the field. -/
theorem keyMatches_unnumbered (key : BitVec 5) (pf : BitVec 1) (utype : BitVec 5) :
    keyMatches .unnumbered key (.unnumbered pf utype) = true ↔ utype.toNat = key.toNat := by
  rw [keyMatches, beq_iff_eq, BitVec.toNat_eq]

/-- R190: transmitted at least once, of the kind and key. -/
theorem itemMatches_iff (kind : Kind) (key : BitVec 5) (it : Item) :
    itemMatches kind key it = true ↔ 1 ≤ it.attempts ∧ keyMatches kind key it.frame.control = true := by
  rw [itemMatches, Bool.and_eq_true, decide_eq_true_iff]

/-- The search stops at the first item that matches (R190). -/
theorem firstMatch_append_cons {kind : Kind} {key : BitVec 5} {before : List Item} {it : Item}
    (hit : itemMatches kind key it = true) (hbefore : ∀ b ∈ before, ¬ itemMatches kind key b = true)
    (after : List Item) : firstMatch kind key (before ++ it :: after) = some before.length := by
  have hnone : before.findIdx? (itemMatches kind key) = none :=
    List.findIdx?_eq_none_iff.2 fun b hb => Bool.eq_false_iff.2 (hbefore b hb)
  rw [firstMatch, List.findIdx?_append, hnone, List.findIdx?_cons, hit]
  simp

/-- R190, found. -/
theorem exec_txRemove_of_match {kind : Kind} {key : BitVec 5} {s : State} {before after : List Item} {it : Item}
    (hq : s.txq = before ++ it :: after) (hit : itemMatches kind key it = true)
    (hbefore : ∀ b ∈ before, ¬ itemMatches kind key b = true) :
    exec (.txRemove kind key) s =
      .next { s with txBuf := cut s.txBuf it.off it.len, txq := (before ++ after).map (Item.afterRemoval it),
                     response := .removed true } := by
  have hfirst : firstMatch kind key s.txq = some before.length := hq ▸ firstMatch_append_cons hit hbefore after
  have hget : s.txq[before.length]? = some it := by simp [hq]
  have herase : s.txq.eraseIdx before.length = before ++ after := by
    rw [hq, List.eraseIdx_append_of_length_le le_rfl, Nat.sub_self, List.eraseIdx_cons_zero]
  change execTxRemove kind key s = _
  simp only [execTxRemove, hfirst, complete_eq, removeItem_some hget, herase]

/-- R190, not found. -/
theorem exec_txRemove_of_no_match {kind : Kind} {key : BitVec 5} {s : State}
    (hnone : ∀ it ∈ s.txq, ¬ itemMatches kind key it = true) :
    exec (.txRemove kind key) s = .next { s with response := .removed false } := by
  have hfirst : firstMatch kind key s.txq = none :=
    List.findIdx?_eq_none_iff.2 fun it hit => Bool.eq_false_iff.2 (hnone it hit)
  change execTxRemove kind key s = _
  rw [execTxRemove, hfirst, complete_eq]

/-- Settles O35: the model's match, which looks at the bits of the key, is the comparison of numbers. -/
theorem txRemoveTakesFirstMatch : Obligations.TxRemoveTakesFirstMatch := by
  intro kind key s hit
  have hiff : ∀ it : Item, hit it ↔ itemMatches kind key it = true := by
    intro it
    rw [itemMatches_iff]
    refine and_congr_right fun _ => ?_
    cases kind <;> cases it.frame.control
    case information.information => exact (keyMatches_information ..).symm
    case supervisory.supervisory => exact (keyMatches_supervisory ..).symm
    case unnumbered.unnumbered => exact (keyMatches_unnumbered ..).symm
    all_goals exact iff_of_false id Bool.false_ne_true
  simp only [hiff]
  exact ⟨rfl, fun _ _ _ => exec_txRemove_of_match, exec_txRemove_of_no_match⟩

end Sys2Proof
end

section
/-! PROOFS. The Sender: what a write, a read, a reset and a status leave (spec/44_sender.md R184 to R189, R192,
R193). -/

namespace Sys2Proof

open Machine

/-! ### TX_WRITE_FRAME -/

/-- The queue is full when its depth is bounded and reached (R184, D14). -/
theorem queueFull_iff (p : Params) (q : List Item) : queueFull p q = true ↔ p.txqDepth = some q.length := by
  unfold queueFull
  cases p.txqDepth with
  | none => simp
  | some d => simp [eq_comm]

/-- R82, R85: the operands of `TX_WRITE_FRAME`. -/
theorem encode_txWriteFrame (frame : Frame) (payload : List Byte) (priority : Nat) (retryable : Bool) :
    encode (.txWriteFrame frame payload priority retryable) =
      .command 0x18 [.octets [frame.address, packControl frame.control], .octets payload, .number priority,
        .number (if retryable = true then 1 else 0)] := by
  cases retryable <;> rfl

/-- R184, with room for the payload and the item; the item is that of R181. -/
theorem exec_txWriteFrame_of_room {frame : Frame} {payload : List Byte} {priority : Nat} {retryable : Bool}
    {s : State} (hp : priority < 2 ^ s.params.prioW) (hfit : payload.length ≤ s.params.txCap - s.txLen)
    (hdepth : s.params.txqDepth ≠ some s.txq.length) :
    exec (.txWriteFrame frame payload priority retryable) s =
      .next { s with txBuf := Memory.ofBytes (s.txBuf.bytes ++ payload),
                     txq := insertItem s.txq (Item.fresh s.txLen frame payload priority retryable),
                     response := .done } := by
  obtain ⟨hover | hfull, -⟩ | ⟨-, -, heq⟩ := execTxWriteFrame_cases frame payload priority retryable s hp
  · exact absurd hover hfit.not_gt
  · exact absurd ((queueFull_iff _ _).1 hfull) hdepth
  · exact heq

/-- R184, when the payload does not fit or the queue is full. -/
theorem exec_txWriteFrame_of_no_room {frame : Frame} {payload : List Byte} {priority : Nat} {retryable : Bool}
    {s : State} (hp : priority < 2 ^ s.params.prioW)
    (hno : s.params.txCap - s.txLen < payload.length ∨ s.params.txqDepth = some s.txq.length) :
    exec (.txWriteFrame frame payload priority retryable) s = .next { s with response := .error .txCapacity } := by
  obtain ⟨-, heq⟩ | ⟨hfit, hroom, -⟩ := execTxWriteFrame_cases frame payload priority retryable s hp
  · exact heq
  · rw [← queueFull_iff, hroom] at hno
    exact (hno.elim hfit.not_gt Bool.false_ne_true).elim

/-- Settles O31: the operands, the write with room, and the one without. -/
theorem txWriteFrameEnqueuesOrChangesNothing : Obligations.TxWriteFrameEnqueuesOrChangesNothing :=
  fun _ _ _ _ _ hp => ⟨encode_txWriteFrame .., exec_txWriteFrame_of_room hp, exec_txWriteFrame_of_no_room hp⟩

/-! ### TX_READ -/

/-- R185, step 1. -/
theorem exec_txRead_of_empty {e : Nat} {s : State} (ht : s.params.timeFits e = true) (hq : s.txq = []) :
    exec (.txRead e) s = .next { s with txOut := Memory.unspecified, response := .sent 0 } := by
  change execTxRead e s = _
  rw [execTxRead, (elapsedAbove_eq_false _ _).2 ht, bounded_false, hq, complete_eq]

section Head

variable {e : Nat} {s : State} {h : Item} {rest : List Item}

/-- R185, steps 2 to 4: the head, brought up to date, is served, or it waits. -/
theorem exec_txRead_of_cons (ht : s.params.timeFits e = true) (hq : s.txq = h :: rest) :
    exec (.txRead e) s =
      if h.attempts = 0 then serveHead { h with attempts := 1 } rest s
      else if s.params.writeTimeoutMs ≤ h.ageMs + e then
        serveHead { h with ageMs := 0, attempts := h.attempts + 1 } rest s
      else
        .next { s with txq := { h with ageMs := h.ageMs + e } :: rest, txOut := Memory.unspecified,
                       response := .sent 0 } := by
  change execTxRead e s = _
  rw [execTxRead, (elapsedAbove_eq_false _ _).2 ht, bounded_false, hq]
  simp only [ageDue, decide_eq_true_iff, complete_eq]

/-- R186: a head never sent is served at once. -/
theorem exec_txRead_of_unsent (ht : s.params.timeFits e = true) (hq : s.txq = h :: rest) (ha : h.attempts = 0) :
    exec (.txRead e) s = serveHead { h with attempts := 1 } rest s := by
  rw [exec_txRead_of_cons ht hq, if_pos ha]

/-- R187: a head that is due is served. -/
theorem exec_txRead_of_due (ht : s.params.timeFits e = true) (hq : s.txq = h :: rest) (ha : 1 ≤ h.attempts)
    (hdue : s.params.writeTimeoutMs ≤ h.ageMs + e) :
    exec (.txRead e) s = serveHead { h with ageMs := 0, attempts := h.attempts + 1 } rest s := by
  rw [exec_txRead_of_cons ht hq, if_neg (Nat.pos_iff_ne_zero.1 ha), if_pos hdue]

/-- R187: a head that is not due ages. -/
theorem exec_txRead_of_waiting (ht : s.params.timeFits e = true) (hq : s.txq = h :: rest) (ha : 1 ≤ h.attempts)
    (hwait : h.ageMs + e < s.params.writeTimeoutMs) :
    exec (.txRead e) s =
      .next { s with txq := { h with ageMs := h.ageMs + e } :: rest, txOut := Memory.unspecified,
                     response := .sent 0 } := by
  rw [exec_txRead_of_cons ht hq, if_neg (Nat.pos_iff_ne_zero.1 ha), if_neg hwait.not_ge]

/-- R188: a head with no attempts left is removed and nothing is sent. -/
theorem serveHead_of_exhausted (hx : s.params.writeRetries + 1 < h.attempts) :
    serveHead h rest s =
      .next { s with txBuf := cut s.txBuf h.off h.len, txq := rest.map (Item.afterRemoval h),
                     txOut := Memory.unspecified, response := .error .txTimeout } := by
  obtain ⟨-, heq⟩ | ⟨hleft, -⟩ | ⟨hleft, -⟩ := serveHead_cases h rest s
  · exact heq
  · exact absurd hx hleft.not_gt
  · exact absurd hx hleft.not_gt

/-- R189: a retryable head stays in the queue after it is sent. -/
theorem serveHead_of_retryable (hleft : h.attempts ≤ s.params.writeRetries + 1) (hr : h.retryable = true) :
    serveHead h rest s =
      .next { s with txq := h :: rest, txOut := Memory.ofBytes (itemBytes s h),
                     response := .sent (itemBytes s h).length } := by
  obtain ⟨hx, -⟩ | ⟨-, -, heq⟩ | ⟨-, hnot, -⟩ := serveHead_cases h rest s
  · exact absurd hx hleft.not_gt
  · exact heq
  · exact absurd hr (Bool.eq_false_iff.1 hnot)

/-- R189: any other leaves it. -/
theorem serveHead_of_not_retryable (hleft : h.attempts ≤ s.params.writeRetries + 1) (hr : h.retryable = false) :
    serveHead h rest s =
      .next { s with txBuf := cut s.txBuf h.off h.len, txq := rest.map (Item.afterRemoval h),
                     txOut := Memory.ofBytes (itemBytes s h), response := .sent (itemBytes s h).length } := by
  obtain ⟨hx, -⟩ | ⟨-, hyes, -⟩ | ⟨-, -, heq⟩ := serveHead_cases h rest s
  · exact absurd hx hleft.not_gt
  · exact absurd hyes (Bool.eq_false_iff.1 hr)
  · exact heq

/-- R185, step 5 on a due head: the attempt this read would make is one too many. The removal looks at the payload
of the head alone, not at its age and attempts. -/
theorem exec_txRead_of_exhausted (ht : s.params.timeFits e = true) (hq : s.txq = h :: rest)
    (hx : s.params.writeRetries + 1 ≤ h.attempts) (hdue : s.params.writeTimeoutMs ≤ h.ageMs + e) :
    exec (.txRead e) s =
      .next { s with txBuf := cut s.txBuf h.off h.len, txq := rest.map (Item.afterRemoval h),
                     txOut := Memory.unspecified, response := .error .txTimeout } :=
  (exec_txRead_of_due ht hq ((Nat.le_add_left _ _).trans hx) hdue).trans
    (serveHead_of_exhausted (Nat.lt_succ_of_le hx))

/-- R185, step 6: a head never sent, or due with attempts left, is served within its attempts, alike but for age and
attempts. -/
theorem exec_txRead_of_sendable (ht : s.params.timeFits e = true) (hq : s.txq = h :: rest) {h' : Item}
    (hsend : h.attempts = 0 ∧ h' = { h with attempts := 1 } ∨
      1 ≤ h.attempts ∧ h.attempts ≤ s.params.writeRetries ∧ s.params.writeTimeoutMs ≤ h.ageMs + e ∧
        h' = { h with ageMs := 0, attempts := h.attempts + 1 }) :
    ∃ age tries, h' = { h with ageMs := age, attempts := tries } ∧ tries ≤ s.params.writeRetries + 1 ∧
      exec (.txRead e) s = serveHead h' rest s := by
  obtain ⟨ha, rfl⟩ | ⟨ha, hleft, hdue, rfl⟩ := hsend
  · exact ⟨h.ageMs, 1, rfl, Nat.le_add_left _ _, exec_txRead_of_unsent ht hq ha⟩
  · exact ⟨0, h.attempts + 1, rfl, Nat.succ_le_succ hleft, exec_txRead_of_due ht hq ha hdue⟩

end Head

/-- R142 for an item: at most `len` octets are read for its payload. -/
theorem length_itemBytes_bounds (s : State) (h : Item) :
    6 ≤ (itemBytes s h).length ∧ (itemBytes s h).length ≤ 2 * h.len + 10 := by
  have hpay : (memRead s.txBuf h.off h.len).length ≤ h.len := List.length_take_le _ _
  have hcount := countP_isReserved_frameContent_le h.frame (memRead s.txBuf h.off h.len)
  rw [itemBytes, length_encodeFrame]
  omega

/-- `TX_OUT` has room for the frame of any item whose payload fits `TX_BUF` (R34, R142). -/
theorem length_itemBytes_le_outCap (s : State) {h : Item} (hlen : h.len ≤ s.params.txCap) :
    (itemBytes s h).length ≤ s.params.outCap :=
  (length_itemBytes_bounds s h).2.trans (Nat.add_le_add_right (Nat.mul_le_mul_left 2 hlen) 10)

/-- A buffer that holds a byte sequence gives it back. -/
theorem memRead_ofBytes_length (v : List Byte) : memRead (Memory.ofBytes v) 0 v.length = v := by
  rw [memRead, bytes_ofBytes, List.drop_zero, List.take_length]

/-- Settles O33: the empty queue, the head that waits, the head that is given up, and the head that is sent. -/
theorem txReadFollowsSixSteps : Obligations.TxReadFollowsSixSteps := by
  refine ⟨fun _ => rfl, fun e s ht => ⟨fun hq => ⟨_, exec_txRead_of_empty ht hq⟩, fun h rest hq =>
    ⟨fun ha hwait => ⟨_, exec_txRead_of_waiting ht hq ha hwait⟩,
      fun hx hdue => ⟨_, exec_txRead_of_exhausted ht hq hx hdue⟩, fun h' hsend => ?_⟩⟩⟩
  obtain ⟨hmin, hmax⟩ := length_itemBytes_bounds s h
  obtain ⟨age, tries, rfl, hleft, hserve⟩ := exec_txRead_of_sendable ht hq hsend
  exact ⟨hmin, hmax, length_itemBytes_le_outCap s, Memory.ofBytes (itemBytes s h), memRead_ofBytes_length _,
    fun hr => hserve.trans (serveHead_of_retryable hleft hr),
    fun hr => hserve.trans (serveHead_of_not_retryable hleft hr)⟩

/-! ### TX_RESET and TX_STATUS -/

/-- R192: nothing is pending afterwards. -/
theorem exec_txReset (s : State) :
    exec .txReset s =
      .next { s with txBuf := Memory.unspecified, txq := [], txOut := Memory.unspecified, response := .done } := rfl

/-- R193: only the response changes. -/
theorem exec_txStatus (s : State) :
    exec .txStatus s = .next { s with response := .txLengths s.txLen s.txq.length } := rfl

/-- 0 milliseconds fit every `TIME_W` (R85). -/
theorem timeFits_zero (p : Params) : p.timeFits 0 = true := by
  unfold Params.timeFits
  cases p.timeW with
  | none => rfl
  | some w => exact decide_eq_true (Nat.two_pow_pos w)

/-- Settles O38: the state `TX_RESET` leaves, the read of its empty queue, and the status. -/
theorem txResetEmptiesAndStatusReports : Obligations.TxResetEmptiesAndStatusReports :=
  ⟨rfl, rfl, fun s =>
    ⟨⟨_, exec_txReset s, rfl, length_unspecified, rfl, rfl, ⟨rfl, rfl⟩, ⟨rfl, rfl⟩, _,
      exec_txRead_of_empty (timeFits_zero s.params) rfl, rfl⟩, exec_txStatus s⟩⟩

end Sys2Proof
end

section
/-! PROOFS. The error results: their codes, and for each the one operation that raises it and the cause it has then
(spec/60_exceptions.md R250). -/

namespace Sys2Proof

open Machine

/-! ### Status codes -/

/-- No error has the code of a normal result. -/
theorem errorCode_ne_zero (e : Error) : e.code ≠ 0 := by
  cases e <;> decide

/-- R250: code 0 is the code of the normal results. -/
theorem status_eq_zero_iff (r : Response) : r.status = 0 ↔ ∀ e : Error, r ≠ .error e := by
  cases r with
  | error e => exact ⟨fun hcode => absurd hcode (errorCode_ne_zero e), fun hne => absurd rfl (hne e)⟩
  | _ => exact ⟨fun _ _ => nofun, fun _ => rfl⟩

/-! ### The error an operation delivers -/

section Raised

variable {s t u : State} {e : Error}

/-- The error is in the response of the state the operation is known to leave. -/
theorem response_of_next_eq {run : Host.Outcome State Fault Refusal} (heq : run = .next u) (hrun : run = .next t)
    (he : t.response = .error e) : u.response = .error e :=
  next_inj (heq.symm.trans hrun) ▸ he

/-- What ends an operation with `complete` is its response. -/
theorem eq_error_of_complete {r : Response} (hrun : complete r s = .next t) (he : t.response = .error e) :
    r = .error e :=
  response_of_next_eq rfl hrun he

/-- R251. -/
theorem error_of_exec_rxWrite {bytes : List Byte} (hrun : exec (.rxWrite bytes) s = .next t)
    (he : t.response = .error e) : s.params.rxCap - s.rxLen < bytes.length ∧ e = .rxCapacity := by
  obtain ⟨hover, heq⟩ | ⟨-, heq⟩ := execRxWrite_cases bytes s
  · exact ⟨hover, (Response.error.inj (response_of_next_eq heq hrun he)).symm⟩
  · nomatch response_of_next_eq heq hrun he

/-- R252. -/
theorem error_of_exec_txWriteFrame {frame : Frame} {payload : List Byte} {priority : Nat} {retryable : Bool}
    (hrun : exec (.txWriteFrame frame payload priority retryable) s = .next t) (he : t.response = .error e) :
    (s.params.txCap - s.txLen < payload.length ∨ s.params.txqDepth = some s.txq.length) ∧ e = .txCapacity := by
  have hprio := (priorityAbove_eq_false s.params priority).1 (bounded_next hrun).1
  obtain ⟨hno, heq⟩ | ⟨-, -, heq⟩ := execTxWriteFrame_cases frame payload priority retryable s hprio
  · exact ⟨hno.imp_right (queueFull_iff _ _).1, (Response.error.inj (response_of_next_eq heq hrun he)).symm⟩
  · nomatch response_of_next_eq heq hrun he

/-- R188: serving a head raises an error only for its attempts. -/
theorem error_of_serveHead {h : Item} {rest : List Item} (hrun : serveHead h rest s = .next t)
    (he : t.response = .error e) : s.params.writeRetries + 1 < h.attempts ∧ e = .txTimeout := by
  obtain ⟨hx, heq⟩ | ⟨-, -, heq⟩ | ⟨-, -, heq⟩ := serveHead_cases h rest s
  · exact ⟨hx, (Response.error.inj (response_of_next_eq heq hrun he)).symm⟩
  · nomatch response_of_next_eq heq hrun he
  · nomatch response_of_next_eq heq hrun he

/-- R253: a head never sent has its first attempt left, so it is a head served again that runs out of them. -/
theorem error_of_exec_txRead {elapsedMs : Nat} (hrun : exec (.txRead elapsedMs) s = .next t)
    (he : t.response = .error e) :
    (∃ h rest, s.txq = h :: rest ∧ s.params.writeRetries + 1 < h.attempts + 1) ∧ e = .txTimeout := by
  have hfits := (elapsedAbove_eq_false s.params elapsedMs).1 (bounded_next hrun).1
  obtain ⟨-, heq⟩ | ⟨h, rest, hq, hunsent, heq⟩ | ⟨h, rest, hq, -, -, heq⟩ | ⟨h, rest, -, -, -, heq⟩ :=
    execTxRead_cases elapsedMs s hfits
  · nomatch response_of_next_eq heq hrun he
  · obtain ⟨hx, herr⟩ := error_of_serveHead (heq.symm.trans hrun) he
    exact ⟨⟨h, rest, hq, hunsent.symm ▸ hx⟩, herr⟩
  · obtain ⟨hx, herr⟩ := error_of_serveHead (heq.symm.trans hrun) he
    exact ⟨⟨h, rest, hq, hx⟩, herr⟩
  · nomatch response_of_next_eq heq hrun he

/-- R162: with a frame or without one, the read is a normal result. -/
theorem not_error_of_exec_rxReadFrame (hrun : exec .rxReadFrame s = .next t) : t.response ≠ .error e := by
  intro he
  obtain ⟨_, _, -, heq⟩ | ⟨_, -, heq⟩ := execRxReadFrame_cases s
  · nomatch response_of_next_eq heq hrun he
  · nomatch response_of_next_eq heq hrun he

/-- R190: finding nothing is no error. -/
theorem not_error_of_exec_txRemove {kind : Kind} {key : BitVec 5} (hrun : exec (.txRemove kind key) s = .next t) :
    t.response ≠ .error e := by
  intro he
  obtain ⟨_, -, heq⟩ | ⟨-, heq⟩ := execTxRemove_cases kind key s
  · nomatch response_of_next_eq heq hrun he
  · nomatch response_of_next_eq heq hrun he

end Raised

/-- Settles O49: the three operations that raise an error, and the rest, which end in a normal result: two on every
branch, two within their bound, and the others at once. -/
theorem errorsComeFromThreeOperations : Obligations.ErrorsComeFromThreeOperations := by
  refine ⟨rfl, rfl, rfl, status_eq_zero_iff, fun _ => rfl, fun i s t e hrun he => ?_⟩
  cases i with
  | rxWrite bytes =>
    obtain ⟨hover, herr⟩ := error_of_exec_rxWrite hrun he
    exact .inl ⟨⟨bytes, rfl, hover⟩, herr⟩
  | txWriteFrame frame payload priority retryable =>
    obtain ⟨hno, herr⟩ := error_of_exec_txWriteFrame hrun he
    exact .inr (.inl ⟨⟨frame, payload, priority, retryable, rfl, hno⟩, herr⟩)
  | txRead elapsedMs =>
    obtain ⟨⟨h, rest, hq, hx⟩, herr⟩ := error_of_exec_txRead hrun he
    exact .inr (.inr ⟨⟨elapsedMs, h, rest, rfl, hq, hx⟩, herr⟩)
  | rxReadFrame => exact absurd he (not_error_of_exec_rxReadFrame hrun)
  | txRemove kind key => exact absurd he (not_error_of_exec_txRemove hrun)
  | encode frame payload => nomatch eq_error_of_complete (bounded_next hrun).2 he
  | decode input => nomatch eq_error_of_complete (bounded_next hrun).2 he
  | _ => nomatch eq_error_of_complete hrun he

end Sys2Proof
end

section
/-! PROOFS. The first operation after reset: what an idle step does, and what each operation answers when nothing is held
and nothing is pending (spec/70_reset_and_hazards.md R282). -/

namespace Sys2Proof

open Machine

/-- A legal instance does nothing while the host has issued nothing (R282). -/
theorem step_of_nothing_issued {s : State} (hlegal : s.params.legal = true) (hhost : s.host = []) :
    step s = .next s := by
  simp only [step, fetch, hlegal, hhost]

/-- The queue of a legal instance has room for one item at least (D20). -/
theorem txqDepth_ne_zero_of_legal {p : Params} (hlegal : p.legal = true) : p.txqDepth ≠ some 0 := by
  intro hzero
  simp [Params.legal, hzero] at hlegal

/-- The initial accumulator complemented, as `FCS_FINAL` returns it (R107). -/
theorem fcsBytes_fcsInit :
    Response.fcsBytes (fcsLow (Config.fcsInit ^^^ Config.fcsXorOut)) (fcsHigh (Config.fcsInit ^^^ Config.fcsXorOut)) =
      .fcsBytes 0x00 0x00 := by decide

/-- The initial accumulator is not the residue of a valid frame (R108). -/
theorem residueGood_fcsInit : residueGood Config.fcsInit = false := by decide

/-- Settles O51: each operation's own lemma at the reset state, whose buffers and queue are empty, so that a write has the
whole capacity and a legal queue has room. -/
theorem firstOperationResultsAfterReset : Obligations.FirstOperationResultsAfterReset :=
  fun _ =>
    ⟨fun hlegal => step_of_nothing_issued hlegal rfl,
      ⟨_, exec_fcsRead _, rfl⟩, ⟨_, exec_fcsFinal _, fcsBytes_fcsInit⟩,
      ⟨_, exec_fcsCheck _, congrArg Response.good residueGood_fcsInit⟩,
      ⟨_, exec_rxReadFrame_of_empty rfl, rfl⟩, ⟨_, exec_rxStatus _, rfl⟩,
      fun _ hfits => ⟨_, exec_txRead_of_empty hfits rfl, rfl⟩,
      fun _ _ => ⟨_, exec_txRemove_of_no_match (List.forall_mem_nil _), rfl⟩, ⟨_, exec_txStatus _, rfl⟩,
      fun _ hfit => ⟨_, exec_rxWrite_of_fits hfit, rfl⟩,
      fun _ _ _ _ hlegal hprio hfit =>
        ⟨_, exec_txWriteFrame_of_room hprio hfit (txqDepth_ne_zero_of_legal hlegal), rfl⟩,
      fun v => ⟨_, exec_escByte v _, rfl⟩,
      fun frame _ hfit => ⟨_, exec_encode hfit frame, rfl⟩,
      fun _ hfit => ⟨_, exec_decode hfit, rfl⟩⟩

end Sys2Proof
end

section
/-! PROOFS. What every instruction can do: it completes within the bounds of its operands (spec/30_encoding.md R85,
spec/60_exceptions.md R265), and it writes its own unit alone (spec/10_state.md R40, R41). -/

namespace Sys2Proof

open Machine

/-! ### Completion -/

/-- A bounded operation completes inside its bound when what it runs does, and is refused outside it. -/
theorem bounded_completes {outside within : Bool} {why : Refusal} {run : Host.Outcome State Fault Refusal}
    (hbound : outside = false ↔ within = true) (hrun : outside = false → ∃ t, run = .next t) :
    (within = true → ∃ t, bounded outside why run = .next t) ∧
    (within = false → ∃ reason, bounded outside why run = .refused reason) := by
  cases outside with
  | false =>
    have hwithin : within = true := hbound.1 rfl
    exact ⟨fun _ => hrun rfl, fun hnot => absurd hwithin (Bool.eq_false_iff.1 hnot)⟩
  | true => exact ⟨fun hwithin => absurd (hbound.2 hwithin) (by decide), fun _ => ⟨why, rfl⟩⟩

/-- An instruction whose operands have no bound only has to complete. -/
theorem completes_of_wellFormed {i : Instr} {s t : State} (hwf : i.wellFormed s.params = true)
    (h : exec i s = .next t) :
    (i.wellFormed s.params = true → ∃ t, exec i s = .next t) ∧
    (i.wellFormed s.params = false → ∃ why, exec i s = .refused why) :=
  ⟨fun _ => ⟨t, h⟩, fun hnot => absurd hwf (Bool.eq_false_iff.1 hnot)⟩

theorem execRxReadFrame_completes (s : State) : ∃ t, execRxReadFrame s = .next t := by
  obtain ⟨_, _, -, heq⟩ | ⟨_, -, heq⟩ := execRxReadFrame_cases s <;> exact ⟨_, heq⟩

theorem serveHead_completes (h : Item) (rest : List Item) (s : State) : ∃ t, serveHead h rest s = .next t := by
  obtain ⟨-, heq⟩ | ⟨-, -, heq⟩ | ⟨-, -, heq⟩ := serveHead_cases h rest s <;> exact ⟨_, heq⟩

/-- R185: the steps of `TX_READ` end in a state in every case. -/
theorem execTxRead_completes {elapsedMs : Nat} {s : State} (hfits : s.params.timeFits elapsedMs = true) :
    ∃ t, execTxRead elapsedMs s = .next t := by
  obtain ⟨-, heq⟩ | ⟨_, _, -, -, heq⟩ | ⟨_, _, -, -, -, heq⟩ | ⟨_, _, -, -, -, heq⟩ :=
    execTxRead_cases elapsedMs s hfits
  · exact ⟨_, heq⟩
  · exact heq ▸ serveHead_completes _ _ s
  · exact heq ▸ serveHead_completes _ _ s
  · exact ⟨_, heq⟩

theorem execTxWriteFrame_completes {frame : Frame} {payload : List Byte} {priority : Nat} {retryable : Bool} {s : State}
    (hprio : priority < 2 ^ s.params.prioW) : ∃ t, execTxWriteFrame frame payload priority retryable s = .next t := by
  obtain ⟨-, heq⟩ | ⟨-, -, heq⟩ := execTxWriteFrame_cases frame payload priority retryable s hprio <;>
    exact ⟨_, heq⟩

/-- Settles O48: four operations are bounded, and their bound is that of `wellFormed`; three have a case analysis of
their own; every other ends in `complete` at once. -/
theorem instructionsCompleteWithinBounds : Obligations.InstructionsCompleteWithinBounds := by
  intro i s
  cases i with
  | encode frame payload =>
    exact bounded_completes ((payloadAbove_eq_false _ _).trans decide_eq_true_iff.symm) fun _ => ⟨_, rfl⟩
  | decode input => exact bounded_completes ((inputAbove_eq_false _ _).trans decide_eq_true_iff.symm) fun _ => ⟨_, rfl⟩
  | txWriteFrame frame payload priority retryable =>
    have hbound := priorityAbove_eq_false s.params priority
    refine bounded_completes (hbound.trans decide_eq_true_iff.symm) fun hin => ?_
    obtain ⟨t, ht⟩ := execTxWriteFrame_completes (frame := frame) (payload := payload) (retryable := retryable)
      (hbound.1 hin)
    exact ⟨t, (bounded_next ht).2⟩
  | txRead elapsedMs =>
    have hbound := elapsedAbove_eq_false s.params elapsedMs
    refine bounded_completes hbound fun hin => ?_
    obtain ⟨t, ht⟩ := execTxRead_completes (hbound.1 hin)
    exact ⟨t, (bounded_next ht).2⟩
  | rxWrite bytes =>
    obtain ⟨-, heq⟩ | ⟨-, heq⟩ := execRxWrite_cases bytes s <;> exact completes_of_wellFormed rfl heq
  | rxReadFrame => exact completes_of_wellFormed rfl (execRxReadFrame_completes s).choose_spec
  | txRemove kind key =>
    obtain ⟨_, -, heq⟩ | ⟨-, heq⟩ := execTxRemove_cases kind key s <;> exact completes_of_wellFormed rfl heq
  | _ => exact completes_of_wellFormed rfl rfl

/-! ### What an operation writes -/

section Writes

variable {s t : State}

/-- What ends with `complete` leaves its argument but for the response. -/
theorem eq_of_complete {r : Response} (h : complete r s = .next t) : t = { s with response := r } :=
  (next_inj h).symm

/-- A write to the receive buffer, or none. -/
theorem exec_rxWrite_writes {bytes : List Byte} (h : exec (.rxWrite bytes) s = .next t) :
    ∃ m r, t = { s with rxBuf := m, response := r } := by
  obtain ⟨-, heq⟩ | ⟨-, heq⟩ := execRxWrite_cases bytes s <;> exact ⟨_, _, next_inj (h.symm.trans heq)⟩

theorem exec_rxReadFrame_writes (h : exec .rxReadFrame s = .next t) :
    ∃ m pay r, t = { s with rxBuf := m, rxPay := pay, response := r } := by
  obtain ⟨_, _, -, heq⟩ | ⟨_, -, heq⟩ := execRxReadFrame_cases s <;> exact ⟨_, _, _, next_inj (h.symm.trans heq)⟩

theorem exec_txWriteFrame_writes {frame : Frame} {payload : List Byte} {priority : Nat} {retryable : Bool}
    (h : exec (.txWriteFrame frame payload priority retryable) s = .next t) :
    ∃ m q r, t = { s with txBuf := m, txq := q, response := r } := by
  have hprio := (priorityAbove_eq_false s.params priority).1 (bounded_next h).1
  obtain ⟨-, heq⟩ | ⟨-, -, heq⟩ := execTxWriteFrame_cases frame payload priority retryable s hprio <;>
    exact ⟨_, _, _, next_inj (h.symm.trans heq)⟩

theorem serveHead_writes {head : Item} {rest : List Item} (h : serveHead head rest s = .next t) :
    ∃ m q out r, t = { s with txBuf := m, txq := q, txOut := out, response := r } := by
  obtain ⟨-, heq⟩ | ⟨-, -, heq⟩ | ⟨-, -, heq⟩ := serveHead_cases head rest s <;>
    exact ⟨_, _, _, _, next_inj (h.symm.trans heq)⟩

theorem exec_txRead_writes {elapsedMs : Nat} (h : exec (.txRead elapsedMs) s = .next t) :
    ∃ m q out r, t = { s with txBuf := m, txq := q, txOut := out, response := r } := by
  have hfits := (elapsedAbove_eq_false s.params elapsedMs).1 (bounded_next h).1
  obtain ⟨-, heq⟩ | ⟨_, _, -, -, heq⟩ | ⟨_, _, -, -, -, heq⟩ | ⟨_, _, -, -, -, heq⟩ :=
    execTxRead_cases elapsedMs s hfits
  · exact ⟨_, _, _, _, next_inj (h.symm.trans heq)⟩
  · exact serveHead_writes (heq.symm.trans h)
  · exact serveHead_writes (heq.symm.trans h)
  · exact ⟨_, _, _, _, next_inj (h.symm.trans heq)⟩

theorem exec_txRemove_writes {kind : Kind} {key : BitVec 5} (h : exec (.txRemove kind key) s = .next t) :
    ∃ m q r, t = { s with txBuf := m, txq := q, response := r } := by
  obtain ⟨j, -, heq⟩ | ⟨-, heq⟩ := execTxRemove_cases kind key s
  · obtain ⟨m, q, hremove⟩ := removeItem_writes j s
    rw [hremove] at heq
    exact ⟨m, q, _, next_inj (h.symm.trans heq)⟩
  · exact ⟨_, _, _, next_inj (h.symm.trans heq)⟩

end Writes

/-- Settles O52: what each operation can write lies in its unit. -/
theorem instructionsWriteOnlyTheirUnit : Obligations.InstructionsWriteOnlyTheirUnit := by
  intro i s t h
  cases i with
  | rxWrite bytes =>
    obtain ⟨m, r, rfl⟩ := exec_rxWrite_writes h
    exact ⟨⟨rfl, rfl⟩, rfl, ⟨rfl, rfl, rfl⟩, rfl⟩
  | rxReadFrame =>
    obtain ⟨m, pay, r, rfl⟩ := exec_rxReadFrame_writes h
    exact ⟨⟨rfl, rfl⟩, rfl, ⟨rfl, rfl, rfl⟩⟩
  | txWriteFrame frame payload priority retryable =>
    obtain ⟨m, q, r, rfl⟩ := exec_txWriteFrame_writes h
    exact ⟨⟨rfl, rfl⟩, rfl, ⟨rfl, rfl⟩, rfl⟩
  | txRead elapsedMs =>
    obtain ⟨m, q, out, r, rfl⟩ := exec_txRead_writes h
    exact ⟨⟨rfl, rfl⟩, rfl, ⟨rfl, rfl⟩⟩
  | txRemove kind key =>
    obtain ⟨m, q, r, rfl⟩ := exec_txRemove_writes h
    exact ⟨⟨rfl, rfl⟩, rfl, ⟨rfl, rfl⟩, rfl⟩
  | fcsInit => obtain rfl := eq_of_complete h; exact ⟨⟨rfl, rfl⟩, ⟨rfl, rfl⟩, ⟨rfl, rfl, rfl⟩⟩
  | fcsUpdate b => obtain rfl := eq_of_complete h; exact ⟨⟨rfl, rfl⟩, ⟨rfl, rfl⟩, ⟨rfl, rfl, rfl⟩⟩
  | rxReset => obtain rfl := eq_of_complete h; exact ⟨⟨rfl, rfl⟩, rfl, ⟨rfl, rfl, rfl⟩⟩
  | txReset => obtain rfl := eq_of_complete h; exact ⟨⟨rfl, rfl⟩, rfl, ⟨rfl, rfl⟩⟩
  | encode frame payload => obtain rfl := eq_of_complete (bounded_next h).2; exact ⟨⟨rfl, rfl⟩, rfl⟩
  | decode input => obtain rfl := eq_of_complete (bounded_next h).2; exact ⟨⟨rfl, rfl⟩, rfl⟩
  | _ => obtain rfl := eq_of_complete h; exact ⟨⟨rfl, rfl⟩, rfl⟩

/-- Whether an instruction is one of the Receiver's that write it (R160). -/
def writesReceiver : Instr → Bool
  | .rxWrite _ | .rxReadFrame | .rxReset => true
  | _ => false

/-- Whether an instruction is one of the Sender's that write it (R180). -/
def writesSender : Instr → Bool
  | .txWriteFrame _ _ _ _ | .txRead _ | .txRemove _ _ | .txReset => true
  | _ => false

theorem exec_params {i : Instr} {s t : State} (h : exec i s = .next t) : t.params = s.params :=
  (instructionsWriteOnlyTheirUnit i s t h).1.1

/-- R40: the Receiver is written by its own instructions alone. -/
theorem sameReceiver_of_exec {i : Instr} {s t : State} (hi : writesReceiver i = false) (h : exec i s = .next t) :
    sameReceiver s t := by
  have hwrites := (instructionsWriteOnlyTheirUnit i s t h).2
  cases i with
  | rxWrite bytes => cases hi
  | rxReadFrame => cases hi
  | rxReset => cases hi
  | fcsInit | fcsUpdate b => exact hwrites.1
  | txWriteFrame frame payload priority retryable => exact hwrites.2.1
  | txRemove kind key => exact hwrites.2.1
  | txRead elapsedMs => exact hwrites.2
  | txReset => exact hwrites.2
  | _ => rw [hwrites]; exact ⟨rfl, rfl⟩

/-- R40: the Sender is written by its own instructions alone. -/
theorem sameSender_of_exec {i : Instr} {s t : State} (hi : writesSender i = false) (h : exec i s = .next t) :
    sameSender s t := by
  have hwrites := (instructionsWriteOnlyTheirUnit i s t h).2
  cases i with
  | txWriteFrame frame payload priority retryable => cases hi
  | txRemove kind key => cases hi
  | txRead elapsedMs => cases hi
  | txReset => cases hi
  | fcsInit | fcsUpdate b => exact hwrites.2
  | rxWrite bytes => exact hwrites.2.1
  | rxReadFrame => exact hwrites.2
  | rxReset => exact hwrites.2
  | _ => rw [hwrites]; exact ⟨rfl, rfl, rfl⟩

end Sys2Proof
end

section
/-! PROOFS. No unit learns anything of another (spec/10_state.md R40, R41): one operation run on two states that agree
on its unit and on the parameters leaves states that agree on the unit, with one response. -/

namespace Sys2Proof

open Machine

/-- Two runs that both end in a state leave states that are alike in the sense of `same`, with one response. -/
def Agree (same : State → State → Prop) (run run' : Host.Outcome State Fault Refusal) : Prop :=
  ∀ t t', run = .next t → run' = .next t' → same t t' ∧ t.response = t'.response

section Agreement

variable {s s' : State}

theorem agree_next {same : State → State → Prop} {t t' : State} (hsame : same t t')
    (hresponse : t.response = t'.response) :
    Agree same (.next t) (.next t') := by
  rintro _ _ ⟨⟩ ⟨⟩
  exact ⟨hsame, hresponse⟩

/-- A bound is tested on the parameters and the operand, and a refused run leaves no state. -/
theorem agree_bounded {same : State → State → Prop} {outside outside' : Bool} {why why' : Refusal}
    {run run' : Host.Outcome State Fault Refusal} (h : Agree same run run') :
    Agree same (bounded outside why run) (bounded outside' why' run') :=
  fun t t' hrun hrun' => h t t' (bounded_next hrun).2 (bounded_next hrun').2

/-! ### The Receiver -/

theorem agree_execRxWrite (hparams : s.params = s'.params) (hsame : sameReceiver s s') (bytes : List Byte) :
    Agree sameReceiver (execRxWrite bytes s) (execRxWrite bytes s') := by
  obtain ⟨hbuf, hpay⟩ := hsame
  unfold execRxWrite
  rw [hparams, hbuf]
  cases appendBytes s.rxBuf s'.params.rxCap bytes with
  | none => exact agree_next ⟨hbuf, hpay⟩ rfl
  | some m => exact agree_next ⟨rfl, hpay⟩ rfl

theorem agree_execRxReadFrame (hsame : sameReceiver s s') :
    Agree sameReceiver (execRxReadFrame s) (execRxReadFrame s') := by
  unfold execRxReadFrame
  rw [rxLen_eq, rxLen_eq, hsame.1]
  obtain ⟨_ | r, m⟩ := readLoop (s.rxBuf.length + 1) s.rxBuf
  · exact agree_next ⟨rfl, rfl⟩ rfl
  · exact agree_next ⟨rfl, rfl⟩ rfl

/-! ### The Sender -/

theorem sameSender_removeItem (j : Nat) (hsame : sameSender s s') :
    sameSender (removeItem j s) (removeItem j s') := by
  obtain ⟨hbuf, hq, hout⟩ := hsame
  unfold removeItem
  rw [hq]
  cases s.txq[j]? with
  | none => exact ⟨hbuf, hq, hout⟩
  | some r => exact ⟨by rw [hbuf], rfl, hout⟩

theorem agree_execTxWriteFrame (hparams : s.params = s'.params) (hsame : sameSender s s') (frame : Frame)
    (payload : List Byte) (priority : Nat) (retryable : Bool) :
    Agree sameSender (execTxWriteFrame frame payload priority retryable s)
      (execTxWriteFrame frame payload priority retryable s') := by
  obtain ⟨hbuf, hq, hout⟩ := hsame
  refine agree_bounded ?_
  rw [hparams, hbuf, hq, txLen_eq, txLen_eq, hbuf]
  cases appendBytes s.txBuf s'.params.txCap payload with
  | none => exact agree_next ⟨hbuf, hq, hout⟩ rfl
  | some m =>
    cases queueFull s'.params s.txq with
    | true => exact agree_next ⟨hbuf, hq, hout⟩ rfl
    | false => exact agree_next ⟨rfl, rfl, hout⟩ rfl

/-- The encoding of the head is read from `TX_BUF` (R189). -/
theorem agree_transmitHead (hsame : sameSender s s') (h : Item) :
    Agree sameSender (transmitHead h s) (transmitHead h s') := by
  obtain ⟨hbuf, hq, -⟩ := hsame
  have hsent : sameSender { s with txOut := Memory.ofBytes (itemBytes s h) }
      { s' with txOut := Memory.ofBytes (itemBytes s h) } := ⟨hbuf, hq, rfl⟩
  have hbytes : itemBytes s' h = itemBytes s h := by rw [itemBytes, itemBytes, hbuf]
  unfold transmitHead
  rw [hbytes]
  cases h.retryable with
  | true => exact agree_next hsent rfl
  | false => exact agree_next (sameSender_removeItem 0 hsent) rfl

theorem agree_serveHead (hparams : s.params = s'.params) (hsame : sameSender s s') (h : Item) (rest : List Item) :
    Agree sameSender (serveHead h rest s) (serveHead h rest s') := by
  obtain ⟨hbuf, -, hout⟩ := hsame
  have hserved : sameSender { s with txq := h :: rest } { s' with txq := h :: rest } := ⟨hbuf, rfl, hout⟩
  have hgone : sameSender { s with txq := h :: rest, txOut := Memory.unspecified }
      { s' with txq := h :: rest, txOut := Memory.unspecified } := ⟨hbuf, rfl, rfl⟩
  have hexhausted : attemptsExhausted s'.params h.attempts = attemptsExhausted s.params h.attempts := by rw [hparams]
  unfold serveHead
  rw [hexhausted]
  cases attemptsExhausted s.params h.attempts with
  | true => exact agree_next (sameSender_removeItem 0 hgone) rfl
  | false => exact agree_transmitHead hserved h

theorem agree_execTxRead (hparams : s.params = s'.params) (hsame : sameSender s s') (elapsedMs : Nat) :
    Agree sameSender (execTxRead elapsedMs s) (execTxRead elapsedMs s') := by
  have hserve := agree_serveHead hparams hsame
  obtain ⟨hbuf, hq, -⟩ := hsame
  refine agree_bounded ?_
  rw [hparams, hq]
  cases s.txq with
  | nil => exact agree_next ⟨hbuf, rfl, rfl⟩ rfl
  | cons h rest =>
    dsimp only
    split
    · exact hserve _ _
    · split
      · exact hserve _ _
      · exact agree_next ⟨hbuf, rfl, rfl⟩ rfl

theorem agree_execTxRemove (hsame : sameSender s s') (kind : Kind) (key : BitVec 5) :
    Agree sameSender (execTxRemove kind key s) (execTxRemove kind key s') := by
  unfold execTxRemove
  rw [hsame.2.1]
  cases firstMatch kind key s.txq with
  | none => exact agree_next hsame rfl
  | some j => exact agree_next (sameSender_removeItem j hsame) rfl

end Agreement

/-- Settles O53: the operations that look at a state do so through their unit; every other ends in `complete` with a
response of its operands or of its unit. -/
theorem unitsDoNotObserveEachOther : Obligations.UnitsDoNotObserveEachOther := by
  intro i s s' t t' hparams h h'
  cases i with
  | fcsInit => rw [eq_of_complete h, eq_of_complete h']; exact fun _ => ⟨rfl, rfl⟩
  | fcsUpdate b =>
    rw [eq_of_complete h, eq_of_complete h']
    exact fun hsame => ⟨congrArg (fcsUpdate · b) hsame, rfl⟩
  | fcsRead =>
    rw [eq_of_complete h, eq_of_complete h']
    exact fun hsame => ⟨hsame, congrArg Response.accumulator hsame.symm⟩
  | fcsFinal =>
    rw [eq_of_complete h, eq_of_complete h']
    exact fun hsame => ⟨hsame, congrArg (fun acc =>
      Response.fcsBytes (fcsLow (acc ^^^ Config.fcsXorOut)) (fcsHigh (acc ^^^ Config.fcsXorOut))) hsame.symm⟩
  | fcsCheck =>
    rw [eq_of_complete h, eq_of_complete h']
    exact fun hsame => ⟨hsame, congrArg (fun acc => Response.good (residueGood acc)) hsame.symm⟩
  | rxWrite bytes => exact fun hsame => agree_execRxWrite hparams hsame bytes t t' h h'
  | rxReadFrame => exact fun hsame => agree_execRxReadFrame hsame t t' h h'
  | rxReset => rw [eq_of_complete h, eq_of_complete h']; exact fun _ => ⟨⟨rfl, rfl⟩, rfl⟩
  | rxStatus =>
    rw [eq_of_complete h, eq_of_complete h']
    exact fun hsame => ⟨hsame, congrArg (fun m : Memory => Response.rxLength m.length) hsame.1.symm⟩
  | txWriteFrame frame payload priority retryable =>
    exact fun hsame => agree_execTxWriteFrame hparams hsame frame payload priority retryable t t' h h'
  | txRead elapsedMs => exact fun hsame => agree_execTxRead hparams hsame elapsedMs t t' h h'
  | txRemove kind key => exact fun hsame => agree_execTxRemove hsame kind key t t' h h'
  | txReset => rw [eq_of_complete h, eq_of_complete h']; exact fun _ => ⟨⟨rfl, rfl, rfl⟩, rfl⟩
  | txStatus =>
    rw [eq_of_complete h, eq_of_complete h']
    exact fun hsame => ⟨hsame, congrArg₂ (fun (m : Memory) (q : List Item) => Response.txLengths m.length q.length)
      hsame.1.symm hsame.2.1.symm⟩
  | encode frame payload =>
    rw [eq_of_complete (bounded_next h).2, eq_of_complete (bounded_next h').2]
  | decode input =>
    rw [eq_of_complete (bounded_next h).2, eq_of_complete (bounded_next h').2]
  | _ => rw [eq_of_complete h, eq_of_complete h']

end Sys2Proof
end

section
/-! PROOFS. The pending payloads partition `TX_BUF` (spec/10_state.md R32 (c)): an item of the queue splits the order
of enqueue as it splits the queue, and so the partition survives a change, a removal and an insertion of one item. -/

namespace Sys2Proof

open Machine

/-! ### Items one after another -/

theorem contiguous_append {o e : Nat} {xs ys : List Item} :
    Contiguous o (xs ++ ys) e ↔ ∃ m, Contiguous o xs m ∧ Contiguous m ys e := by
  induction xs generalizing o with
  | nil => simp [Contiguous]
  | cons x xs ih => simp [Contiguous, ih, and_assoc]

theorem contiguous_cons {o e : Nat} {x : Item} {xs : List Item} :
    Contiguous o (x :: xs) e ↔ x.off = o ∧ Contiguous (o + x.len) xs e := Iff.rfl

/-- Items from `o` to `e` lie in that range, and the ends are in order. -/
theorem range_of_contiguous {o e : Nat} {xs : List Item} (h : Contiguous o xs e) :
    o ≤ e ∧ ∀ x ∈ xs, o ≤ x.off ∧ x.off + x.len ≤ e := by
  induction xs generalizing o with
  | nil => exact ⟨h.le, List.forall_mem_nil _⟩
  | cons x xs ih =>
    obtain ⟨rfl, hrest⟩ := contiguous_cons.1 h
    obtain ⟨hle, hmem⟩ := ih hrest
    refine ⟨by omega, List.forall_mem_cons.2 ⟨⟨le_rfl, hle⟩, fun y hy => ?_⟩⟩
    have := hmem y hy
    omega

/-- Items after a removed payload move down by its length, also when that is 0. -/
theorem afterRemoval_of_end_le {r t : Item} (h : r.off + r.len ≤ t.off) :
    Item.afterRemoval r t = { t with off := t.off - r.len } := by
  obtain hzero | hpos := Nat.eq_zero_or_pos r.len
  · rw [afterRemoval_of_len_zero hzero, hzero, Nat.sub_zero]
  · exact afterRemoval_of_behind hpos (by omega)

/-- Items before a removed payload stay one after another. -/
theorem contiguous_map_afterRemoval_before {o : Nat} {r : Item} {xs : List Item} (h : Contiguous o xs r.off) :
    Contiguous o (xs.map (Item.afterRemoval r)) r.off := by
  have hsame : ∀ x ∈ xs, Item.afterRemoval r x = x := fun x hx =>
    afterRemoval_of_before ((Nat.le_add_right _ _).trans ((range_of_contiguous h).2 x hx).2)
  rwa [List.map_congr_left hsame, List.map_id']

/-- Items behind a removed payload close the gap. -/
theorem contiguous_map_afterRemoval_behind {o e : Nat} {r : Item} {xs : List Item} (ho : r.off ≤ o)
    (h : Contiguous (o + r.len) xs e) : Contiguous o (xs.map (Item.afterRemoval r)) (e - r.len) := by
  induction xs generalizing o with
  | nil => exact (Nat.sub_eq_of_eq_add h.symm).symm
  | cons x xs ih =>
    obtain ⟨hoff, hrest⟩ := contiguous_cons.1 h
    rw [List.map_cons, contiguous_cons, afterRemoval_len, afterRemoval_of_end_le (by omega)]
    refine ⟨?_, ih (by omega) (by rwa [Nat.add_right_comm])⟩
    dsimp only
    omega

/-- Removing one of several items that lie one after another leaves the others one after another. -/
theorem contiguous_remove {e : Nat} {r : Item} {xs ys : List Item} (h : Contiguous 0 (xs ++ r :: ys) e) :
    Contiguous 0 ((xs ++ ys).map (Item.afterRemoval r)) (e - r.len) := by
  obtain ⟨m, hxs, rfl, hys⟩ := contiguous_append.1 h
  rw [List.map_append]
  exact contiguous_append.2
    ⟨r.off, contiguous_map_afterRemoval_before hxs, contiguous_map_afterRemoval_behind le_rfl hys⟩

/-! ### The order of enqueue around one item -/

/-- Whether two lists are the same items, and in the same order among those of one priority (R31, R32 (c)). -/
def EnqueueOrderOf (enqueued q : List Item) : Prop :=
  enqueued.Perm q ∧ ∀ p : Nat, enqueued.filter (fun it => it.prio == p) = q.filter (fun it => it.prio == p)

theorem partitioned_iff {q : List Item} {txLen : Nat} :
    Partitioned q txLen ↔ ∃ enqueued, EnqueueOrderOf enqueued q ∧ Contiguous 0 enqueued txLen := by
  simp only [Partitioned, EnqueueOrderOf, and_assoc]

/-- A change of the items that keeps their priorities keeps the order of enqueue. -/
theorem enqueueOrderOf_map {f : Item → Item} (hf : ∀ it, (f it).prio = it.prio) {enqueued q : List Item}
    (h : EnqueueOrderOf enqueued q) : EnqueueOrderOf (enqueued.map f) (q.map f) := by
  refine ⟨h.1.map f, fun p => ?_⟩
  have hcomp : (fun it : Item => it.prio == p) ∘ f = fun it => it.prio == p := funext fun it => by simp [hf]
  rw [List.filter_map, List.filter_map, hcomp, h.2 p]

/-- An item of the queue stands in the order of enqueue with the same items of its priority before and behind it. So
nothing, or any items of that priority, may stand in its place in both. -/
theorem enqueueOrderOf_split {enqueued before after : List Item} {r : Item}
    (h : EnqueueOrderOf enqueued (before ++ r :: after)) :
    ∃ xs ys, enqueued = xs ++ r :: ys ∧
      ∀ mid : List Item, (∀ it ∈ mid, it.prio = r.prio) →
        EnqueueOrderOf (xs ++ mid ++ ys) (before ++ mid ++ after) := by
  obtain ⟨hperm, hfilter⟩ := h
  have hown := hfilter r.prio
  rw [List.filter_append, List.filter_cons_of_pos (by simp), List.filter_eq_append_iff] at hown
  obtain ⟨xs₁, rest, rfl, hxs₁, hrest⟩ := hown
  obtain ⟨xs₂, ys, rfl, hxs₂, -, hys⟩ := List.filter_eq_cons_iff.1 hrest
  have hxs₂nil : xs₂.filter (fun it => it.prio == r.prio) = [] := List.filter_eq_nil_iff.2 hxs₂
  refine ⟨xs₁ ++ xs₂, ys, by simp, fun mid hmid => ⟨?_, fun p => ?_⟩⟩
  · have hothers : List.Perm (xs₁ ++ xs₂ ++ ys) (before ++ after) := by
      rw [← List.append_assoc] at hperm
      exact ((List.perm_middle.symm.trans hperm).trans List.perm_middle).cons_inv
    calc List.Perm (xs₁ ++ xs₂ ++ mid ++ ys) (mid ++ (xs₁ ++ xs₂ ++ ys)) := by
          rw [List.append_assoc _ mid]; exact List.perm_append_comm_assoc ..
      List.Perm _ (mid ++ (before ++ after)) := hothers.append_left mid
      List.Perm _ (before ++ mid ++ after) := by
          rw [List.append_assoc before]; exact List.perm_append_comm_assoc ..
  · by_cases hp : p = r.prio
    · subst hp
      simp [hxs₁, hxs₂nil, hys]
    · have hne : ∀ it : Item, it.prio = r.prio → ¬ (it.prio == p) = true := fun it hit => by simp [hit, Ne.symm hp]
      have hmidnil : mid.filter (fun it => it.prio == p) = [] :=
        List.filter_eq_nil_iff.2 fun it hit => hne it (hmid it hit)
      have hskip (l : List Item) : (r :: l).filter (fun it => it.prio == p) = l.filter (fun it => it.prio == p) :=
        List.filter_cons_of_neg (hne r rfl)
      have hall := hfilter p
      rw [← List.append_assoc, List.filter_append, List.filter_append (l₁ := before), hskip, hskip] at hall
      simp only [List.filter_append, hmidnil, List.append_nil] at hall ⊢
      exact hall

/-! ### The partition under each change of the queue -/

section Change

variable {before after q : List Item} {r : Item} {txLen : Nat}

/-- Age and attempts of an item are no part of the partition. -/
theorem partitioned_replace {r' : Item} (hoff : r'.off = r.off) (hlen : r'.len = r.len) (hprio : r'.prio = r.prio)
    (h : Partitioned (before ++ r :: after) txLen) : Partitioned (before ++ r' :: after) txLen := by
  obtain ⟨enqueued, horder, hcont⟩ := partitioned_iff.1 h
  obtain ⟨xs, ys, rfl, hmid⟩ := enqueueOrderOf_split horder
  refine partitioned_iff.2 ⟨xs ++ [r'] ++ ys, ?_, ?_⟩
  · simpa using hmid [r'] (by simpa using hprio)
  · obtain ⟨m, hxs, hcons⟩ := contiguous_append.1 hcont
    rw [contiguous_cons, ← hoff, ← hlen] at hcons
    rw [List.append_assoc]
    exact contiguous_append.2 ⟨m, hxs, hcons⟩

/-- A removal closes the gap it leaves (R191). -/
theorem partitioned_remove (h : Partitioned (before ++ r :: after) txLen) :
    Partitioned ((before ++ after).map (Item.afterRemoval r)) (txLen - r.len) := by
  obtain ⟨enqueued, horder, hcont⟩ := partitioned_iff.1 h
  obtain ⟨xs, ys, rfl, hmid⟩ := enqueueOrderOf_split horder
  have hothers : EnqueueOrderOf (xs ++ ys) (before ++ after) := by simpa using hmid [] (List.forall_mem_nil _)
  exact partitioned_iff.2 ⟨_, enqueueOrderOf_map (afterRemoval_prio r) hothers, contiguous_remove hcont⟩

/-- A new item is the last enqueued, and the last of its priority in the queue (R182). -/
theorem partitioned_insertItem {it : Item} (hq : ServiceOrdered q) (hoff : it.off = txLen)
    (h : Partitioned q txLen) : Partitioned (insertItem q it) (txLen + it.len) := by
  obtain ⟨enqueued, ⟨hperm, hfilter⟩, hcont⟩ := partitioned_iff.1 h
  refine partitioned_iff.2 ⟨enqueued ++ [it], ⟨?_, fun p => ?_⟩, contiguous_append.2 ⟨txLen, hcont, hoff, rfl⟩⟩
  · exact (List.perm_append_singleton it enqueued).trans ((hperm.cons it).trans (insertItem_perm q it).symm)
  · have hbehind : it.prio = p →
        (q.dropWhile (fun t => decide (it.prio ≤ t.prio))).filter (fun t => t.prio == p) = [] := fun hp =>
      List.filter_eq_nil_iff.2 fun t ht => by have := prio_lt_of_mem_dropWhile hq t ht; simp; omega
    have hcut : q.filter (fun t => t.prio == p) =
        (q.takeWhile (fun t => decide (it.prio ≤ t.prio))).filter (fun t => t.prio == p) ++
        (q.dropWhile (fun t => decide (it.prio ≤ t.prio))).filter (fun t => t.prio == p) := by
      rw [← List.filter_append, List.takeWhile_append_dropWhile]
    rw [List.filter_append, hfilter p, hcut, insertItem, List.filter_append]
    by_cases hp : it.prio = p
    · subst hp
      simp [hbehind rfl]
    · simp [hp]

/-- The payload of an item lies in the buffer. -/
theorem end_le_of_partitioned (h : Partitioned (before ++ r :: after) txLen) : r.off + r.len ≤ txLen := by
  obtain ⟨enqueued, ⟨hperm, -⟩, hcont⟩ := partitioned_iff.1 h
  exact ((range_of_contiguous hcont).2 r (hperm.mem_iff.2 (by simp))).2

/-- The payload of any other item lies before that of `r` or behind it. -/
theorem disjoint_of_partitioned (h : Partitioned (before ++ r :: after) txLen) :
    ∀ it ∈ before ++ after, it.off + it.len ≤ r.off ∨ r.off + r.len ≤ it.off := by
  obtain ⟨enqueued, horder, hcont⟩ := partitioned_iff.1 h
  obtain ⟨xs, ys, rfl, hmid⟩ := enqueueOrderOf_split horder
  obtain ⟨m, hxs, rfl, hys⟩ := contiguous_append.1 hcont
  intro it hit
  have hothers : List.Perm (xs ++ ys) (before ++ after) := by simpa using (hmid [] (List.forall_mem_nil _)).1
  obtain hleft | hright := List.mem_append.1 (hothers.mem_iff.2 hit)
  · exact .inl ((range_of_contiguous hxs).2 it hleft).2
  · exact .inr ((range_of_contiguous hys).2 it hright).1

end Change

/-! ### The payloads a removal leaves -/

/-- Bytes before a cut are read where they were. -/
theorem memRead_cut_before {m : Memory} {o l a n : Nat} (ho : o ≤ m.length) (hend : a + n ≤ o) :
    memRead (cut m o l) a n = memRead m a n := by
  have hlen : (m.bytes.take o).length = o := by rw [List.length_take, length_bytes, min_eq_left ho]
  rw [memRead, memRead, bytes_cut, List.drop_append_of_le_length (by omega),
    List.take_append_of_le_length (by simp; omega), List.drop_take, List.take_take, min_eq_left (by omega)]

/-- Bytes behind a cut are read lower by its length. -/
theorem memRead_cut_behind {m : Memory} {o l a n : Nat} (ho : o ≤ m.length) (hstart : o + l ≤ a) :
    memRead (cut m o l) (a - l) n = memRead m a n := by
  have hlen : (m.bytes.take o).length = o := by rw [List.length_take, length_bytes, min_eq_left ho]
  have hnil : (m.bytes.take o).drop (a - l) = [] := List.drop_eq_nil_of_le (by omega)
  rw [memRead, memRead, bytes_cut, List.drop_append, hnil, List.nil_append, hlen, List.drop_drop]
  congr 2
  omega

/-- Settles O37: every other payload lies before the removed one, where nothing moves, or behind it, where the offset
moves with the bytes. -/
theorem removalPreservesOtherPayloads : Obligations.RemovalPreservesOtherPayloads := by
  intro s before after r hinv hq it hit
  have hpart : Partitioned (before ++ r :: after) s.txLen := hq ▸ hinv.partitioned
  have hoff : r.off ≤ s.txBuf.length := (Nat.le_add_right _ _).trans (end_le_of_partitioned hpart)
  have hget : s.txq[before.length]? = some r := by simp [hq]
  rw [removeItem_some hget, afterRemoval_len]
  obtain hbefore | hbehind := disjoint_of_partitioned hpart it hit
  · rw [afterRemoval_of_before (by omega)]
    exact memRead_cut_before hoff hbefore
  · rw [afterRemoval_of_end_le hbehind]
    exact memRead_cut_behind hoff hbehind

end Sys2Proof
end

section
/-! PROOFS. What `RX_READ_FRAME` returns and what it leaves (spec/43_receiver.md R162, R165, R166, spec/10_state.md
R35), and the Receiver that is stuck (R167). -/

namespace Sys2Proof

open Machine

/-! ### The number of passes -/

/-- A pass that drops octets without a frame drops two at least, or all (R152, R165). -/
theorem two_le_consumed_or_eq_length {input : List Byte} (hpos : 1 ≤ (decodeFrame input).consumed) :
    2 ≤ (decodeFrame input).consumed ∨ (decodeFrame input).consumed = input.length := by
  cases inputShape input with
  | flagFree h => exact .inr (by rw [decodeFrame_flagFree h, noFrame_consumed])
  | waiting hg hn hbody =>
    rw [decodeFrame_waiting hg hn hbody, noFrame_consumed] at hpos
    exact absurd hpos (by decide)
  | framed t hg hn hne hbody =>
    rw [decodeFrame_framed t hg hn hne hbody, classify_consumed]
    have := List.length_pos_of_ne_nil hne
    exact .inl (by omega)

/-- One pass leaves what it did not consume (R56). -/
theorem length_readPass (m : Memory) : (readPass m).2.length = m.length - (decodeFrame m.bytes).consumed := by
  rw [← length_bytes, readPass_bytes, List.length_drop, length_bytes]

/-- With nothing held the loop leaves nothing, whatever its fuel. -/
theorem readLoop_nil (fuel : Nat) : readLoop fuel [] = (none, []) := by
  cases fuel with
  | zero => rfl
  | succ fuel => exact readLoop_of_waiting rfl rfl fuel

/-- R165: half the held length and two more passes never run out. -/
theorem readLoop_eq_of_half_length_le {fuel fuel' : Nat} {m : Memory} (h : m.length / 2 + 2 ≤ fuel)
    (h' : m.length / 2 + 2 ≤ fuel') : readLoop fuel m = readLoop fuel' m := by
  induction fuel generalizing fuel' m with
  | zero => omega
  | succ fuel ih =>
    obtain ⟨fuel', rfl⟩ := Nat.exists_eq_add_one_of_ne_zero (show fuel' ≠ 0 by omega)
    by_cases hframe : (decodeFrame m.bytes).frame = none
    · obtain hzero | hpos := Nat.eq_zero_or_pos (decodeFrame m.bytes).consumed
      · rw [readLoop_of_waiting hframe hzero, readLoop_of_waiting hframe hzero]
      · have hlen := length_readPass m
        have hle := decodeFrame_consumed_le_length m.bytes
        rw [length_bytes] at hle
        rw [readLoop_of_dropped hframe hpos, readLoop_of_dropped hframe hpos]
        obtain htwo | hall := two_le_consumed_or_eq_length hpos
        · exact ih (by omega) (by omega)
        · rw [length_bytes] at hall
          rw [List.eq_nil_of_length_eq_zero (hlen.trans (by omega)), readLoop_nil, readLoop_nil]
    · rw [readLoop_of_frame hframe, readLoop_of_frame hframe]

/-- Settles O26: it completes in every case, and every pass that goes round again but the last drops two octets. -/
theorem rxReadFrameTerminates : Obligations.RxReadFrameTerminates :=
  ⟨execRxReadFrame_completes, fun _ _ h => readLoop_eq_of_half_length_le h le_rfl⟩

/-! ### The frame the loop ends with -/

/-- Before the pass that ends the loop with a frame, the buffer was `m'`: no longer than at the start. -/
theorem readLoop_some {fuel : Nat} {m left : Memory} {r : DecodeResult} (h : readLoop fuel m = (some r, left)) :
    ∃ m' : Memory, m'.length ≤ m.length ∧ r = decodeFrame m'.bytes ∧ r.frame ≠ none ∧ left = (readPass m').2 := by
  induction fuel generalizing m with
  | zero => cases h
  | succ fuel ih =>
    by_cases hframe : (decodeFrame m.bytes).frame = none
    · obtain hzero | hpos := Nat.eq_zero_or_pos (decodeFrame m.bytes).consumed
      · rw [readLoop_of_waiting hframe hzero] at h
        cases h
      · rw [readLoop_of_dropped hframe hpos] at h
        obtain ⟨m', hle, hrest⟩ := ih h
        exact ⟨m', hle.trans (length_readPass_lt hpos).le, hrest⟩
    · rw [readLoop_of_frame hframe] at h
      cases h
      exact ⟨m, le_rfl, rfl, hframe, rfl⟩

/-- The loop never lengthens the buffer. -/
theorem length_readLoop_le (fuel : Nat) (m : Memory) : (readLoop fuel m).2.length ≤ m.length := by
  have hpass (m : Memory) : (readPass m).2.length ≤ m.length := (length_readPass m).trans_le (Nat.sub_le _ _)
  induction fuel generalizing m with
  | zero => exact le_rfl
  | succ fuel ih =>
    by_cases hframe : (decodeFrame m.bytes).frame = none
    · obtain hzero | hpos := Nat.eq_zero_or_pos (decodeFrame m.bytes).consumed
      · rw [readLoop_of_waiting hframe hzero]
      · rw [readLoop_of_dropped hframe hpos]
        exact (ih _).trans (hpass m)
    · rw [readLoop_of_frame hframe]
      exact hpass m

/-- A frame that was returned is what `decode_frame` gave on a buffer `m'` no longer than `RX_BUF` was, and what
stands in `RX_BUF` is the rest of `m'`. -/
theorem exec_rxReadFrame_returned {s t : State} {p : Nat} {f : Frame} {v : Bool}
    (h : exec .rxReadFrame s = .next t) (hresponse : t.response = .frameRead p (some f) v) :
    ∃ m' : Memory, m'.length ≤ s.rxLen ∧ (decodeFrame m'.bytes).frame = some f ∧
      (decodeFrame m'.bytes).payloadLength = p ∧ t.rxBuf = (readPass m').2 ∧
      t.rxPay = Memory.ofBytes (decodeFrame m'.bytes).payload := by
  obtain ⟨r, left, hloop, heq⟩ | ⟨left, -, heq⟩ := execRxReadFrame_cases s
  · obtain rfl := next_inj (heq.symm.trans h)
    obtain ⟨m', hle, rfl, -, rfl⟩ := readLoop_some hloop
    obtain ⟨hp, hf, -⟩ := Response.frameRead.inj hresponse
    exact ⟨m', hle, hf, hp, rfl, rfl⟩
  · obtain rfl := next_inj (heq.symm.trans h)
    cases hresponse

/-- With a frame the input has a flag. -/
theorem flag_mem_of_frame {input : List Byte} (hframe : (decodeFrame input).frame ≠ none) : Config.flag ∈ input := by
  by_contra hfree
  rw [decodeFrame_flagFree hfree] at hframe
  exact hframe rfl

/-- Settles O27: what was returned consumed something, so what is left begins with the end flag. -/
theorem returnedFrameLeavesEndFlag : Obligations.ReturnedFrameLeavesEndFlag := by
  intro s t p f v h hresponse
  obtain ⟨m', -, hf, -, hbuf, -⟩ := exec_rxReadFrame_returned h hresponse
  have hframe : (decodeFrame m'.bytes).frame ≠ none := hf ▸ Option.some_ne_none f
  have hpos : 1 ≤ (decodeFrame m'.bytes).consumed := le_trans (by decide) (three_le_consumed_of_frame hframe)
  have hhead : t.rxBuf.bytes.head? = some Config.flag := by
    rw [hbuf, readPass_bytes]
    exact head?_drop_consumed (flag_mem_of_frame hframe) hpos
  refine ⟨?_, hhead⟩
  rw [rxLen_eq, ← length_bytes]
  exact List.length_pos_of_mem (List.mem_of_mem_head? hhead)

/-- R35: two flags and two decoded octets at least are no payload, with FCS octets or without. -/
theorem decodeFrame_payloadLength_le (input : List Byte) :
    (decodeFrame input).payloadLength ≤ input.length - 4 := by
  cases inputShape input with
  | flagFree h => rw [decodeFrame_flagFree h]; exact Nat.zero_le _
  | waiting hg hn hbody => rw [decodeFrame_waiting hg hn hbody]; exact Nat.zero_le _
  | @framed g body n t hg hn hne hbody =>
    have hlen : (unstuff body).1.length ≤ body.length := length_unstuffFrom_le false body
    have hpay (e : Nat) (d : List Byte) (pending : Bool) (acc : Word) :
        (classify e d pending acc).payloadLength ≤ d.length - 2 := by
      unfold classify
      split
      · exact Nat.sub_le_sub_left (by decide) _
      · exact le_rfl
    rw [decodeFrame_framed t hg hn hne hbody, List.length_append, length_garbage_flags_body, List.length_cons]
    refine (hpay _ _ _ _).trans ?_
    omega

/-- Settles O28: `RX_PAY` is laid out from the payload, whose length is the one reported. -/
theorem returnedPayloadIsInResultBuffer : Obligations.ReturnedPayloadIsInResultBuffer := by
  intro s t p f v h hresponse
  obtain ⟨m', hle, -, rfl, -, hpay⟩ := exec_rxReadFrame_returned h hresponse
  rw [hpay, length_ofBytes]
  refine ⟨wf_ofBytes _, decodeFrame_payload_length _, fun hcap => (decodeFrame_payloadLength_le _).trans ?_⟩
  rw [length_bytes]
  exact Nat.sub_le_sub_right (hle.trans hcap) 4

/-! ### The stuck Receiver -/

/-- Being stuck is a matter of `RX_BUF`'s bytes and of the parameters. -/
theorem stuckReceiver_of_bytes_eq {s t : State} (hparams : t.params = s.params) (hbytes : t.rxBuf.bytes = s.rxBuf.bytes)
    (h : StuckReceiver s) : StuckReceiver t := by
  have hlen : t.rxLen = s.rxLen := by rw [rxLen_eq, rxLen_eq, ← length_bytes, hbytes, length_bytes]
  rwa [StuckReceiver, hlen, hparams, hbytes]

/-- R161: there is no room for a byte. -/
theorem exec_rxWrite_of_stuck {s : State} (h : StuckReceiver s) {bytes : List Byte} (hne : bytes ≠ []) :
    exec (.rxWrite bytes) s = .next { s with response := .error .rxCapacity } := by
  have hpos := List.length_pos_of_ne_nil hne
  exact exec_rxWrite_of_overflows (by rw [h.1]; omega)

/-- R162: the decoder waits, so nothing is consumed. -/
theorem exec_rxReadFrame_of_stuck {s : State} (h : StuckReceiver s) :
    exec .rxReadFrame s = .next { s with rxPay := Memory.unspecified, response := .frameRead 0 none false } := by
  obtain ⟨-, -, hwait⟩ := h
  exact exec_rxReadFrame_of_waiting (by rw [hwait]; rfl) (by rw [hwait]; rfl)

/-- R167: a write changes no byte of a full buffer. -/
theorem stuckReceiver_of_exec_rxWrite {s t : State} (h : StuckReceiver s) {bytes : List Byte}
    (hrun : exec (.rxWrite bytes) s = .next t) : StuckReceiver t := by
  by_cases hne : bytes = []
  · subst hne
    obtain rfl := next_inj ((exec_rxWrite_of_fits (Nat.zero_le _)).symm.trans hrun)
    exact stuckReceiver_of_bytes_eq (s := s) rfl (by simp) h
  · obtain rfl := next_inj ((exec_rxWrite_of_stuck h hne).symm.trans hrun)
    exact h

/-- R291: every instruction but `RX_RESET` keeps the Receiver stuck. Those of the other units leave `RX_BUF` as it is.
-/
theorem stuckReceiver_of_exec {s t : State} (h : StuckReceiver s) {i : Instr} (hi : i ≠ .rxReset)
    (hrun : exec i s = .next t) : StuckReceiver t := by
  cases hwrites : writesReceiver i with
  | false => exact stuckReceiver_of_bytes_eq (exec_params hrun) (congrArg _ (sameReceiver_of_exec hwrites hrun).1) h
  | true =>
    cases i with
    | rxWrite bytes => exact stuckReceiver_of_exec_rxWrite h hrun
    | rxReadFrame =>
      obtain rfl := next_inj ((exec_rxReadFrame_of_stuck h).symm.trans hrun)
      exact h
    | rxReset => exact absurd rfl hi
    | _ => cases hwrites

/-- Settles O30: the write, the read, the other instructions, and the reset, which leaves no byte. -/
theorem stuckReceiverNeedsReset : Obligations.StuckReceiverNeedsReset :=
  fun s h => ⟨fun _ => exec_rxWrite_of_stuck h, ⟨_, exec_rxReadFrame_of_stuck h⟩, fun _ _ => stuckReceiver_of_exec h,
    _, exec_rxReset s, length_unspecified, fun hstuck => Nat.not_succ_le_zero 0 hstuck.2.1⟩

end Sys2Proof
end

section
/-! PROOFS. The invariants (spec/10_state.md R27, R32, R34, R35): those of the Receiver and those of the Sender are
kept each by the instructions of its own unit, and by every other because it leaves the unit as it is. -/

namespace Sys2Proof

open Machine

/-! ### The invariants of each unit -/

/-- The part of `Inv` that speaks of the Receiver. -/
structure ReceiverSound (p : Params) (rxBuf rxPay : Memory) : Prop where
  rxWf : rxBuf.wf = true
  payWf : rxPay.wf = true
  within : rxBuf.length ≤ p.rxCap
  payWithin : rxPay.length ≤ p.payCap

/-- The part of `Inv` that speaks of `TX_OUT`. -/
def OutSound (p : Params) (txOut : Memory) : Prop := txOut.wf = true ∧ txOut.length ≤ p.outCap

/-- The part of `Inv` that speaks of `TX_BUF` and the queue. -/
structure QueueSound (p : Params) (txBuf : Memory) (q : List Item) : Prop where
  txWf : txBuf.wf = true
  within : txBuf.length ≤ p.txCap
  depth : QueueWithinDepth p q
  partitioned : Partitioned q txBuf.length
  ordered : ServiceOrdered q
  items : ∀ it ∈ q, ItemSound p it

theorem inv_iff (s : State) :
    Inv s ↔ ReceiverSound s.params s.rxBuf s.rxPay ∧ QueueSound s.params s.txBuf s.txq ∧ OutSound s.params s.txOut :=
  ⟨fun h => ⟨⟨h.rxWf, h.rxPayWf, h.rxWithin, h.payWithin⟩,
      ⟨h.txWf, h.txWithin, h.depth, h.partitioned, h.ordered, h.items⟩, h.txOutWf, h.outWithin⟩,
    fun ⟨hr, hq, hout⟩ => ⟨hr.rxWf, hr.payWf, hq.txWf, hout.1, hr.within, hq.within, hq.depth, hq.partitioned,
      hq.ordered, hq.items, hr.payWithin, hout.2⟩⟩

/-! ### The Receiver -/

/-- A buffer that lists nothing fits, whatever the capacity. -/
theorem receiverSound_unspecified_pay {p : Params} {m : Memory} (hwf : m.wf = true) (hlen : m.length ≤ p.rxCap) :
    ReceiverSound p m Memory.unspecified := ⟨hwf, rfl, hlen, Nat.zero_le _⟩

theorem receiverSound_of_exec {i : Instr} {s t : State} (hi : writesReceiver i = true)
    (h : ReceiverSound s.params s.rxBuf s.rxPay) (hrun : exec i s = .next t) :
    ReceiverSound t.params t.rxBuf t.rxPay := by
  cases i with
  | rxWrite bytes =>
    obtain ⟨-, heq⟩ | ⟨hfit, heq⟩ := execRxWrite_cases bytes s
    · obtain rfl := next_inj (heq.symm.trans hrun)
      exact h
    · obtain rfl := next_inj (heq.symm.trans hrun)
      refine ⟨wf_ofBytes _, h.payWf, ?_, h.payWithin⟩
      have hwithin := h.within
      simp only [length_ofBytes, List.length_append, length_bytes]
      rw [rxLen_eq] at hfit
      omega
  | rxReadFrame =>
    have hwf := readLoop_wf (s.rxLen + 1) h.rxWf
    have hlen := (length_readLoop_le (s.rxLen + 1) s.rxBuf).trans h.within
    obtain ⟨r, m, hloop, heq⟩ | ⟨m, hloop, heq⟩ := execRxReadFrame_cases s
    · obtain rfl := next_inj (heq.symm.trans hrun)
      obtain ⟨m', hle, rfl, -, -⟩ := readLoop_some hloop
      rw [hloop] at hwf hlen
      refine ⟨hwf, wf_ofBytes _, hlen, ?_⟩
      have hpay := decodeFrame_payloadLength_le m'.bytes
      rw [length_bytes] at hpay
      rw [length_ofBytes, decodeFrame_payload_length]
      exact hpay.trans (Nat.sub_le_sub_right (hle.trans h.within) 4)
    · obtain rfl := next_inj (heq.symm.trans hrun)
      rw [hloop] at hwf hlen
      exact receiverSound_unspecified_pay hwf hlen
  | rxReset =>
    obtain rfl := eq_of_complete hrun
    exact receiverSound_unspecified_pay rfl (Nat.zero_le _)
  | _ => cases hi

/-! ### The queue -/

section Queue

variable {p : Params} {txBuf : Memory} {q before after rest : List Item} {r h : Item}

theorem outSound_unspecified (p : Params) : OutSound p Memory.unspecified := ⟨rfl, Nat.zero_le _⟩

theorem queueSound_nil (p : Params) : QueueSound p Memory.unspecified [] where
  txWf := rfl
  within := Nat.zero_le _
  depth := by
    unfold QueueWithinDepth
    cases p.txqDepth with
    | none => trivial
    | some d => exact Nat.zero_le d
  partitioned := ⟨[], .nil, fun _ => rfl, rfl⟩
  ordered := .nil
  items := List.forall_mem_nil _

/-- A queue of as many items or fewer is within the depth. -/
theorem queueWithinDepth_of_length_le {q' : List Item} (hlen : q'.length ≤ q.length) (h : QueueWithinDepth p q) :
    QueueWithinDepth p q' := by
  unfold QueueWithinDepth at h ⊢
  cases hd : p.txqDepth with
  | none => trivial
  | some d => rw [hd] at h; exact hlen.trans h

/-- A queue that is not full has room for one more (R184). -/
theorem queueWithinDepth_insertItem (it : Item) (hroom : queueFull p q = false) (h : QueueWithinDepth p q) :
    QueueWithinDepth p (insertItem q it) := by
  unfold QueueWithinDepth at h ⊢
  unfold queueFull at hroom
  cases hd : p.txqDepth with
  | none => trivial
  | some d =>
    rw [hd] at h hroom
    rw [length_insertItem]
    exact Nat.lt_of_le_of_ne h (of_decide_eq_false hroom)

/-- R32 (d), (e) do not speak of the offset. -/
theorem itemSound_afterRemoval {it : Item} (h : ItemSound p it) : ItemSound p (Item.afterRemoval r it) := by
  simpa [ItemSound] using h

/-- A new item is sound. -/
theorem itemSound_fresh {off : Nat} {frame : Frame} {payload : List Byte} {priority : Nat} {retryable : Bool}
    (hprio : priority < 2 ^ p.prioW) : ItemSound p (Item.fresh off frame payload priority retryable) :=
  ⟨hprio, Nat.zero_le _, fun _ => rfl, fun hsent => absurd hsent (Nat.not_succ_le_zero 0), fun _ => rfl⟩

/-- Service order is a matter of the priorities. -/
theorem serviceOrdered_map_afterRemoval (h : ServiceOrdered q) : ServiceOrdered (q.map (Item.afterRemoval r)) :=
  List.pairwise_map.2 (h.imp fun hle => by rwa [afterRemoval_prio, afterRemoval_prio])

/-- R184 keeps R32. -/
theorem queueSound_insertItem {frame : Frame} {payload : List Byte} {priority : Nat} {retryable : Bool}
    (hprio : priority < 2 ^ p.prioW) (hfit : payload.length ≤ p.txCap - txBuf.length) (hroom : queueFull p q = false)
    (h : QueueSound p txBuf q) :
    QueueSound p (Memory.ofBytes (txBuf.bytes ++ payload))
      (insertItem q (Item.fresh txBuf.length frame payload priority retryable)) := by
  have hlen : (Memory.ofBytes (txBuf.bytes ++ payload)).length = txBuf.length + payload.length := by simp
  have hwithin := h.within
  refine ⟨wf_ofBytes _, by omega, queueWithinDepth_insertItem _ hroom h.depth, ?_,
    serviceOrdered_insertItem h.ordered _, fun it hit => ?_⟩
  · rw [hlen]
    exact partitioned_insertItem h.ordered rfl h.partitioned
  · obtain rfl | hold := mem_insertItem.1 hit
    · exact itemSound_fresh hprio
    · exact h.items it hold

/-- R191 keeps R32. -/
theorem queueSound_remove (h : QueueSound p txBuf (before ++ r :: after)) :
    QueueSound p (cut txBuf r.off r.len) ((before ++ after).map (Item.afterRemoval r)) := by
  have hlen := length_cut (end_le_of_partitioned h.partitioned)
  have hsub : List.Sublist (before ++ after) (before ++ r :: after) :=
    (List.Sublist.refl before).append (List.sublist_cons_self r after)
  refine ⟨wf_cut _ _ _, hlen ▸ (Nat.sub_le _ _).trans h.within,
    queueWithinDepth_of_length_le (by simp) h.depth, ?_,
    serviceOrdered_map_afterRemoval (h.ordered.sublist hsub), List.forall_mem_map.2 fun it hit => ?_⟩
  · rw [hlen]
    exact partitioned_remove h.partitioned
  · exact itemSound_afterRemoval (h.items it (hsub.subset hit))

/-- A head with other age and attempts that are in range keeps R32. -/
theorem queueSound_head {age tries : Nat} (hitem : ItemSound p { h with ageMs := age, attempts := tries })
    (hq : QueueSound p txBuf (h :: rest)) :
    QueueSound p txBuf ({ h with ageMs := age, attempts := tries } :: rest) where
  txWf := hq.txWf
  within := hq.within
  depth := queueWithinDepth_of_length_le (q := h :: rest) le_rfl hq.depth
  partitioned := partitioned_replace (before := []) (r := h) rfl rfl rfl hq.partitioned
  ordered := List.pairwise_cons.2 (List.pairwise_cons.1 hq.ordered)
  items := List.forall_mem_cons.2 ⟨hitem, (List.forall_mem_cons.1 hq.items).2⟩

end Queue

/-! ### The operations of the Sender -/

section Sender

variable {s t : State} {h : Item} {rest : List Item}

/-- The invariants of the Sender in a state. -/
def SenderSound (s : State) : Prop := QueueSound s.params s.txBuf s.txq ∧ OutSound s.params s.txOut

/-- The frame of the head fits `TX_OUT` (R34, R142). -/
theorem outSound_itemBytes (hq : QueueSound s.params s.txBuf (h :: rest)) {h' : Item} (hlen : h'.len = h.len) :
    OutSound s.params (Memory.ofBytes (itemBytes s h')) := by
  have hend := end_le_of_partitioned (before := []) hq.partitioned
  have hwithin := hq.within
  refine ⟨wf_ofBytes _, ?_⟩
  rw [length_ofBytes]
  exact length_itemBytes_le_outCap s (by omega)

/-- R185, steps 5 and 6: the head, its age back at 0, is removed or stays within its attempts. -/
theorem senderSound_serveHead {tries age : Nat} (hage : age = 0)
    (hq : QueueSound s.params s.txBuf (h :: rest))
    (hrun : serveHead { h with ageMs := age, attempts := tries } rest s = .next t) : SenderSound t := by
  have hgone := queueSound_remove (before := []) hq
  have hout := outSound_itemBytes hq (h' := { h with ageMs := age, attempts := tries }) rfl
  obtain ⟨-, heq⟩ | ⟨hleft, hretry, heq⟩ | ⟨-, -, heq⟩ := serveHead_cases _ rest s
  · obtain rfl := next_inj (heq.symm.trans hrun)
    exact ⟨hgone, outSound_unspecified _⟩
  · obtain rfl := next_inj (heq.symm.trans hrun)
    obtain ⟨hprio, -⟩ := hq.items h (List.mem_cons_self ..)
    refine ⟨queueSound_head ⟨hprio, hleft, fun _ => hage, fun _ => ?_, fun hnot => ?_⟩ hq, hout⟩
    · show age < _ ∨ _ ∧ age = 0
      omega
    · rw [hretry] at hnot; cases hnot
  · obtain rfl := next_inj (heq.symm.trans hrun)
    exact ⟨hgone, hout⟩

theorem senderSound_of_exec_txRead {elapsedMs : Nat} (hs : SenderSound s)
    (hrun : exec (.txRead elapsedMs) s = .next t) : SenderSound t := by
  obtain ⟨hq, -⟩ := hs
  have hfits := (elapsedAbove_eq_false s.params elapsedMs).1 (bounded_next hrun).1
  obtain ⟨-, heq⟩ | ⟨h, rest, htxq, hunsent, heq⟩ | ⟨h, rest, htxq, -, -, heq⟩ | ⟨h, rest, htxq, hsent, hwait, heq⟩ :=
    execTxRead_cases elapsedMs s hfits
  · obtain rfl := next_inj (heq.symm.trans hrun)
    exact ⟨hq, outSound_unspecified _⟩
  · rw [htxq] at hq
    obtain ⟨-, -, hfresh, -⟩ := hq.items h (List.mem_cons_self ..)
    exact senderSound_serveHead (hfresh hunsent) hq (heq.symm.trans hrun)
  · rw [htxq] at hq
    exact senderSound_serveHead rfl hq (heq.symm.trans hrun)
  · obtain rfl := next_inj (heq.symm.trans hrun)
    rw [htxq] at hq
    obtain ⟨hprio, htries, -, -, hretry⟩ := hq.items h (List.mem_cons_self ..)
    exact ⟨queueSound_head ⟨hprio, htries, fun hzero => absurd hzero hsent, fun _ => .inl hwait, hretry⟩ hq,
      outSound_unspecified _⟩

theorem senderSound_of_exec {i : Instr} (hi : writesSender i = true) (hs : SenderSound s)
    (hrun : exec i s = .next t) : SenderSound t := by
  cases i with
  | txWriteFrame frame payload priority retryable =>
    have hprio := (priorityAbove_eq_false s.params priority).1 (bounded_next hrun).1
    obtain ⟨-, heq⟩ | ⟨hfit, hroom, heq⟩ := execTxWriteFrame_cases frame payload priority retryable s hprio
    · obtain rfl := next_inj (heq.symm.trans hrun)
      exact hs
    · obtain rfl := next_inj (heq.symm.trans hrun)
      exact ⟨queueSound_insertItem hprio hfit hroom hs.1, hs.2⟩
  | txRead elapsedMs => exact senderSound_of_exec_txRead hs hrun
  | txRemove kind key =>
    obtain ⟨j, hfirst, heq⟩ | ⟨-, heq⟩ := execTxRemove_cases kind key s
    · obtain ⟨hj, -⟩ := List.findIdx?_eq_some_iff_getElem.1 hfirst
      have hsplit : s.txq = s.txq.take j ++ s.txq[j] :: s.txq.drop (j + 1) := by simp
      have hq := hs.1
      rw [hsplit] at hq
      rw [removeItem_some (List.getElem?_eq_getElem hj), List.eraseIdx_eq_take_drop_succ] at heq
      obtain rfl := next_inj (heq.symm.trans hrun)
      exact ⟨queueSound_remove hq, hs.2⟩
    · obtain rfl := next_inj (heq.symm.trans hrun)
      exact hs
  | txReset =>
    obtain rfl := eq_of_complete hrun
    exact ⟨queueSound_nil _, outSound_unspecified _⟩
  | _ => cases hi

end Sender

/-! ### Every step -/

/-- Every instruction keeps the invariants: each unit's by its own operations, and by the others as a frame. -/
theorem inv_of_exec {i : Instr} {s t : State} (h : Inv s) (hrun : exec i s = .next t) : Inv t := by
  obtain ⟨hreceiver, hsender⟩ := (inv_iff s).1 h
  have hparams := exec_params hrun
  refine (inv_iff t).2 ⟨?_, ?_⟩
  · cases hi : writesReceiver i with
    | true => exact receiverSound_of_exec hi hreceiver hrun
    | false =>
      obtain ⟨hbuf, hpay⟩ := sameReceiver_of_exec hi hrun
      rwa [hparams, hbuf, hpay]
  · cases hi : writesSender i with
    | true => exact senderSound_of_exec hi hsender hrun
    | false =>
      obtain ⟨hbuf, hq, hout⟩ := sameSender_of_exec hi hrun
      rwa [hparams, hbuf, hq, hout]

/-- The invariants do not speak of the response or of what the host has issued. -/
theorem inv_of_surroundings {s : State} (h : Inv s) (response : Response) (host : List Issue) :
    Inv { s with response := response, host := host } :=
  (inv_iff _).2 ((inv_iff s).1 h)

/-- Settles O42: a step that answers a state idles, or runs an instruction or raw octets on the state without the
issue. -/
theorem everyStepKeepsInvariants : Obligations.EveryStepKeepsInvariants := by
  intro s t h hstep
  obtain ⟨-, heq⟩ | ⟨-, -, heq⟩ | ⟨_, _, _, -, -, -, heq⟩ | ⟨_, rest, d, -, -, -, heq⟩ := step_cases s
  · cases heq.symm.trans hstep
  · obtain rfl := next_inj (heq.symm.trans hstep)
    exact h
  · cases heq.symm.trans hstep
  · have hrun : runDecoded d { s with host := rest } = .next t := heq.symm.trans hstep
    cases d with
    | instr i => exact inv_of_exec (inv_of_surroundings h s.response rest) hrun
    | raw xs =>
      obtain rfl := eq_of_complete hrun
      exact inv_of_surroundings h _ rest

/-- Settles O41: nothing is held and nothing is pending after reset. -/
theorem resetSatisfiesInvariants : Obligations.ResetSatisfiesInvariants :=
  (inv_iff _).2 ⟨receiverSound_unspecified_pay rfl (Nat.zero_le _), queueSound_nil _, outSound_unspecified _⟩

end Sys2Proof
end

section
/-! PROOFS. The decoder gives back what the encoder writes (spec/30_encoding.md R71 to R79, R83, R85), and a step runs
what it decoded (spec/00_scope.md R9). -/

namespace Sys2Proof

open Machine

/-! ### Operands -/

@[simp] theorem kindOfNumber_kindNumber (kind : Kind) : kindOfNumber (kindNumber kind) = some kind := by
  cases kind <;> rfl

/-- R82: a frame operand is read back as the frame. -/
theorem decodeEncodeOperands_frameOperand (code : Byte) (frame : Frame) (payload : List Byte) :
    decodeEncodeOperands code [frameOperand frame, .octets payload] = .ok (.encode frame payload) := by
  simp [decodeEncodeOperands, frameOperand]

theorem decodeTxWriteOperands_frameOperand (code : Byte) (frame : Frame) (payload : List Byte) (priority : Nat)
    (retryable : Bool) :
    decodeTxWriteOperands code
        [frameOperand frame, .octets payload, .number priority, .number retryable.toNat] =
      .ok (.txWriteFrame frame payload priority retryable) := by
  cases retryable <;> simp [decodeTxWriteOperands, frameOperand]

theorem decodeTxRemoveOperands_kind_key (code : Byte) (kind : Kind) (key : BitVec 5) :
    decodeTxRemoveOperands code [.number (kindNumber kind), .number key.toNat] = .ok (.txRemove kind key) := by
  have hkey : key.toNat < 32 := key.isLt
  simp [decodeTxRemoveOperands, hkey]

/-! ### Control bytes -/

/-- R74: a control byte is read by its format. -/
theorem decodeControlVariant_information (nr : BitVec 3) (pf : BitVec 1) (ns : BitVec 3) :
    decodeControlVariant (packControl (.information nr pf ns)) = .ctrlInformation nr pf ns := by
  rw [decodeControlVariant, unpackControl_packControl]

theorem decodeControlVariant_supervisory (nr : BitVec 3) (pf : BitVec 1) (stype : BitVec 2) :
    decodeControlVariant (packControl (.supervisory nr pf stype)) = .ctrlSupervisory nr pf stype := by
  rw [decodeControlVariant, unpackControl_packControl]

theorem decodeControlVariant_unnumbered (pf : BitVec 1) (utype : BitVec 5) :
    decodeControlVariant (packControl (.unnumbered pf utype)) = .ctrlUnnumbered pf utype := by
  rw [decodeControlVariant, unpackControl_packControl]

/-- R78: the four Supervisory types. -/
theorem decodeControlType_supervisory (nr : BitVec 3) (pf : BitVec 1) (stype : BitVec 2) :
    decodeControlType (packControl (.supervisory nr pf stype)) =
      if stype = Config.receiveReady then .ctrlReceiveReady nr pf
      else if stype = Config.reject then .ctrlReject nr pf
      else if stype = Config.receiveNotReady then .ctrlReceiveNotReady nr pf
      else .ctrlSelectiveReject nr pf := by
  rw [decodeControlType, unpackControl_packControl]

/-- R79: the two Unnumbered types; a byte of another is read by its format. -/
theorem decodeControlType_unnumbered (pf : BitVec 1) (utype : BitVec 5) :
    decodeControlType (packControl (.unnumbered pf utype)) =
      if utype = Config.modeSet then .ctrlModeSet pf
      else if utype = Config.acknowledge then .ctrlAcknowledge pf
      else decodeControlVariant (packControl (.unnumbered pf utype)) := by
  rw [decodeControlType, unpackControl_packControl]

/-! ### The round trip -/

/-- A command is read back when its operands are. -/
theorem decodeIssue_of_decodeCommand {code : Byte} {operands : List Operand} {i : Instr}
    (h : decodeCommand code operands = .ok i) : decodeIssue (.command code operands) = .ok (.instr i) := by
  rw [decodeIssue, h, asDecoded]

/-- Settles O45: commands by their operands, control bytes by unpacking, octets and pairs by comparing them. -/
theorem decodeInvertsEncodeOfInstructions : Obligations.DecodeInvertsEncodeOfInstructions := by
  intro i
  cases i with
  | encode frame payload => exact decodeIssue_of_decodeCommand (decodeEncodeOperands_frameOperand 0x09 frame payload)
  | txWriteFrame frame payload priority retryable =>
    exact decodeIssue_of_decodeCommand (decodeTxWriteOperands_frameOperand 0x18 frame payload priority retryable)
  | txRemove kind key => exact decodeIssue_of_decodeCommand (decodeTxRemoveOperands_kind_key 0x1A kind key)
  | ctrlInformation nr pf ns => rw [encode, decodeIssue, decodeControlVariant_information]
  | ctrlSupervisory nr pf stype => rw [encode, decodeIssue, decodeControlVariant_supervisory]
  | ctrlUnnumbered pf utype => rw [encode, decodeIssue, decodeControlVariant_unnumbered]
  | ctrlReceiveReady nr pf | ctrlReject nr pf | ctrlReceiveNotReady nr pf | ctrlSelectiveReject nr pf =>
    rw [encode, decodeIssue, decodeControlType_supervisory]; rfl
  | ctrlModeSet pf | ctrlAcknowledge pf => rw [encode, decodeIssue, decodeControlType_unnumbered]; rfl
  | _ => rfl

/-- Settles O46: the decoder is evaluated on each word. -/
theorem specWordsDecode : Obligations.SpecWordsDecode := by
  unfold Obligations.SpecWordsDecode
  decide

/-! ### A step -/

/-- A legal instance runs what its next issue decodes to (R9, R58). -/
theorem step_of_decodeIssue_ok {s : State} {issue : Issue} {rest : List Issue} {d : Decoded}
    (hlegal : s.params.legal = true) (hhost : s.host = issue :: rest) (hdecode : decodeIssue issue = .ok d) :
    step s = runDecoded d { s with host := rest } := by
  simp only [step, fetch, hlegal, hhost, hdecode]

/-- Settles O43: what an instruction or raw octets decode to is run. -/
theorem stepRunsDecodedInstruction : Obligations.StepRunsDecodedInstruction :=
  fun _ _ _ hlegal hhost => ⟨fun _ => step_of_decodeIssue_ok hlegal hhost, fun _ => step_of_decodeIssue_ok hlegal hhost⟩

/-! ### Units of the raw octet stream -/

/-- The wire rows have no bound on their operands (R85). -/
theorem wellFormed_of_wire {i : Instr} (hi : i.isOperation = false) (p : Params) : i.wellFormed p = true := by
  cases i with
  | encode frame payload => cases hi
  | decode input => cases hi
  | txWriteFrame frame payload priority retryable => cases hi
  | txRead elapsedMs => cases hi
  | _ => rfl

theorem isOperation_decodeControlVariant (c : Byte) : (decodeControlVariant c).isOperation = false := by
  unfold decodeControlVariant
  cases unpackControl c <;> rfl

theorem isOperation_decodeControlType (c : Byte) : (decodeControlType c).isOperation = false := by
  unfold decodeControlType
  cases unpackControl c with
  | information nr pf ns => exact isOperation_decodeControlVariant c
  | supervisory nr pf stype => dsimp only; split_ifs <;> rfl
  | unnumbered pf utype =>
    dsimp only
    split_ifs
    · rfl
    · rfl
    · exact isOperation_decodeControlVariant c

/-- Whether something decoded is a wire row or raw octets. -/
def Decoded.isWire : Decoded → Prop
  | .instr i => i.isOperation = false
  | .raw _ => True

/-- R80, U8: the decoder gives every unit of the raw octet stream a meaning, and none of the operations. -/
theorem decodeIssue_of_not_command {issue : Issue} (h : ∀ code operands, issue ≠ .command code operands) :
    ∃ d, decodeIssue issue = .ok d ∧ d.isWire := by
  cases issue with
  | command code operands => exact absurd rfl (h code operands)
  | controlVariant c => exact ⟨_, rfl, isOperation_decodeControlVariant c⟩
  | controlType c => exact ⟨_, rfl, isOperation_decodeControlType c⟩
  | octet x =>
    refine ⟨_, rfl, ?_⟩
    unfold decodeOctet
    split_ifs
    · exact rfl
    · exact rfl
    · trivial
  | escapePair x y =>
    refine ⟨_, rfl, ?_⟩
    unfold decodeEscapePair
    split_ifs
    · exact rfl
    · exact rfl
    · trivial

/-- R88: the wire completes from every state. -/
theorem runDecoded_completes_of_isWire {d : Decoded} (hd : d.isWire) (s : State) : ∃ t, runDecoded d s = .next t := by
  cases d with
  | instr i => exact (instructionsCompleteWithinBounds i s).1 (wellFormed_of_wire hd s.params)
  | raw xs => exact ⟨_, rfl⟩

/-- Settles O44: the four outcomes of a step besides that of a command that decodes. -/
theorem stepIdlesOrRefusesOtherwise : Obligations.StepIdlesOrRefusesOtherwise := by
  refine ⟨fun _ => step_of_nothing_issued, fun _ _ _ _ => step_of_decodeIssue_error,
    fun s issue rest hlegal hhost hunit => ?_, fun s hillegal => ?_⟩
  · obtain ⟨d, hdecode, hwire⟩ := decodeIssue_of_not_command hunit
    rw [step_of_decodeIssue_ok hlegal hhost hdecode]
    exact runDecoded_completes_of_isWire hwire _
  · rw [step, hillegal]

end Sys2Proof
end

section
/-! PROOFS. The FCS step as eight bit-serial steps, and what follows from that (spec/40_fcs.md R109): the bit-serial
step is linear and one-to-one, so the table step is. -/

namespace Sys2Proof

open Machine

/-! ### The bit-serial step -/

/-- The form of R109 (c), with the polynomial or 0 XORed, is the step of R100. -/
theorem reflectedStep_eq (v : Word) : reflectedStep v = (v >>> 1) ^^^ (if v.getLsbD 0 = true then 0x8408 else 0) := by
  unfold reflectedStep
  split
  · rfl
  · exact (BitVec.xor_zero).symm

/-- XOR of two polynomials is none, so the step distributes over XOR whatever the low bits are. -/
theorem reflectedStep_xor (a b : Word) : reflectedStep (a ^^^ b) = reflectedStep a ^^^ reflectedStep b := by
  have hpoly (p q : Bool) : (if (p ^^ q) = true then (0x8408 : Word) else 0) =
      (if p = true then 0x8408 else 0) ^^^ (if q = true then 0x8408 else 0) := by
    cases p <;> cases q <;> decide
  rw [reflectedStep_eq, reflectedStep_eq, reflectedStep_eq, BitVec.getLsbD_xor, hpoly, BitVec.ushiftRight_xor_distrib]
  ac_rfl

/-- The top bit of the polynomial keeps the bit that is shifted out. -/
theorem eq_zero_of_reflectedStep_eq_zero {v : Word} (h : reflectedStep v = 0) : v = 0 := by
  rw [reflectedStep_eq] at h
  have hbit (i : Nat) : (v >>> 1).getLsbD i = (if v.getLsbD 0 = true then (0x8408 : Word) else 0).getLsbD i := by
    rw [BitVec.xor_eq_zero_iff.1 h]
  have hlow : v.getLsbD 0 = false := by
    have htop := hbit 15
    cases hv : v.getLsbD 0 with
    | false => rfl
    | true => rw [hv] at htop; simp at htop
  ext i hi
  cases i with
  | zero => simpa using hlow
  | succ i =>
    have := hbit i
    rw [hlow] at this
    simpa [BitVec.getLsbD_eq_getElem hi, Nat.add_comm] using this

theorem reflectedStep_injective : Function.Injective reflectedStep := by
  intro a b h
  apply BitVec.xor_eq_zero_iff.1
  apply eq_zero_of_reflectedStep_eq_zero
  exact (reflectedStep_xor a b).trans (by rw [h]; exact BitVec.xor_self)

theorem reflectedStep_iterate_xor (n : Nat) (a b : Word) :
    reflectedStep^[n] (a ^^^ b) = reflectedStep^[n] a ^^^ reflectedStep^[n] b := by
  induction n generalizing a b with
  | zero => rfl
  | succ n ih => rw [Function.iterate_succ_apply, Function.iterate_succ_apply, Function.iterate_succ_apply,
      reflectedStep_xor, ih]

/-- While the bits shifted out are 0 the step is a shift. -/
theorem reflectedStep_iterate_of_low_zero {n : Nat} {v : Word} (h : ∀ i < n, v.getLsbD i = false) :
    reflectedStep^[n] v = v >>> n := by
  induction n generalizing v with
  | zero => rfl
  | succ n ih =>
    have hstep : reflectedStep v = v >>> 1 := if_neg (by rw [h 0 n.succ_pos]; decide)
    have hshift : ∀ i < n, (v >>> 1).getLsbD i = false := fun i hi => by
      rw [BitVec.getLsbD_ushiftRight, Nat.add_comm]
      exact h _ (Nat.succ_lt_succ hi)
    rw [Function.iterate_succ_apply, hstep, ih hshift, ← BitVec.shiftRight_add, Nat.add_comm]

/-! ### The table step -/

/-- R109 (c): the low octet goes through the table, whose entry is its eight steps; the high octet is shifted down. -/
theorem fcsUpdate_eq_iterate (acc : Word) (b : Byte) :
    fcsUpdate acc b = reflectedStep^[8] (acc ^^^ b.setWidth 16) := by
  set v : Word := acc ^^^ b.setWidth 16 with hv
  have hindex : (v &&& 0xFF).toNat < 256 := by
    rw [BitVec.toNat_and]
    exact Nat.and_lt_two_pow _ (n := 8) (by decide)
  have hentry : fcsTableEntry (v &&& 0xFF).toNat = reflectedStep^[8] (v &&& 0xFF) := by
    rw [fcsTableEntry_eq hindex, reflectedEntry, BitVec.ofNat_toNat, BitVec.setWidth_eq]
  have hhigh : reflectedStep^[8] (v &&& 0xFF00) = acc >>> 8 := by
    rw [reflectedStep_iterate_of_low_zero (by intro i hi; interval_cases i <;> simp)]
    ext i hi
    interval_cases i <;> simp [hv]
  have hsplit : v = (v &&& 0xFF00) ^^^ (v &&& 0xFF) := by
    ext i hi
    interval_cases i <;> simp
  rw [fcsUpdate, ← hv, hentry, ← hhigh, ← reflectedStep_iterate_xor, ← hsplit]

/-- Settles O5: the table step is the iterate of the step of R100, which is that of the law. -/
theorem fcsUpdateIsBitSerial : Obligations.FcsUpdateIsBitSerial := by
  intro acc b
  rw [fcsUpdate_eq_iterate, funext reflectedStep_eq]

/-- Settles O6: the accumulator XORed with the byte is linear in both, and so are the eight steps. -/
theorem fcsUpdateIsLinear : Obligations.FcsUpdateIsLinear := by
  intro a a' b b'
  have hargs : (a ^^^ a') ^^^ (b ^^^ b').setWidth 16 = (a ^^^ b.setWidth 16) ^^^ (a' ^^^ b'.setWidth 16) := by
    rw [BitVec.setWidth_xor]
    ac_rfl
  rw [fcsUpdate_eq_iterate, fcsUpdate_eq_iterate, fcsUpdate_eq_iterate, hargs, reflectedStep_iterate_xor]

/-! ### One octet changed -/

theorem fcsUpdate_injective_byte {acc : Word} {b b' : Byte} (h : fcsUpdate acc b = fcsUpdate acc b') : b = b' := by
  rw [fcsUpdate_eq_iterate, fcsUpdate_eq_iterate] at h
  have hwide := (BitVec.xor_right_inj _).1 (reflectedStep_injective.iterate 8 h)
  simpa using congrArg (BitVec.setWidth 8) hwide

theorem fcsUpdate_injective_acc {acc acc' : Word} {b : Byte} (h : fcsUpdate acc b = fcsUpdate acc' b) : acc = acc' := by
  rw [fcsUpdate_eq_iterate, fcsUpdate_eq_iterate] at h
  exact (BitVec.xor_left_inj _).1 (reflectedStep_injective.iterate 8 h)

theorem fcsFold_injective_acc {s : List Byte} {acc acc' : Word} (h : fcsFold acc s = fcsFold acc' s) : acc = acc' := by
  induction s generalizing acc acc' with
  | nil => exact h
  | cons b rest ih => exact fcsUpdate_injective_acc (ih h)

/-- R109 (e): the octets before are folded alike, and what follows keeps two accumulators apart. -/
theorem fcsFold_ne_of_octet_changed (acc : Word) (p q : List Byte) {x y : Byte} (hne : x ≠ y) :
    fcsFold acc (p ++ x :: q) ≠ fcsFold acc (p ++ y :: q) := by
  intro h
  rw [fcsFold_append, fcsFold_append] at h
  exact hne (fcsUpdate_injective_byte (fcsFold_injective_acc h))

/-- Settles O8: one-to-one in each argument, and so over a sequence. -/
theorem fcsDistinguishesSingleOctetChange : Obligations.FcsDistinguishesSingleOctetChange :=
  ⟨fun _ _ _ => fcsUpdate_injective_byte, fun _ _ _ => fcsUpdate_injective_acc,
    fun acc p q _ _ => fcsFold_ne_of_octet_changed acc p q⟩

/-- Settles O7: the two octets of the complement, low first, take any accumulator to the residue. -/
theorem fcsResidueOfMessageWithItsFcs : Obligations.FcsResidueOfMessageWithItsFcs := fcsFold_append_fcsOf

/-- Settles O22: stuffing is undone, and the content folds to another value than the valid one. -/
theorem corruptedOctetYieldsInvalid : Obligations.CorruptedOctetYieldsInvalid := by
  intro p q x y hgood hne
  have hbody : stuff (p ++ y :: q) ≠ [] := List.ne_nil_of_length_pos <| by
    have := (stuff_length_bounds (p ++ y :: q)).1
    rw [List.length_append, List.length_cons] at this
    omega
  have hfold : fcsFold Config.fcsInit (p ++ y :: q) ≠ Config.fcsGood := fun h =>
    fcsFold_ne_of_octet_changed Config.fcsInit p q hne (hgood.trans h.symm)
  have hframed := decodeFrame_framed [] (g := []) (List.not_mem_nil) (le_refl 1) hbody (flag_not_mem_stuff _)
  have hshape : [0x7E] ++ stuff (p ++ y :: q) ++ [0x7E] =
      [] ++ List.replicate 1 Config.flag ++ stuff (p ++ y :: q) ++ Config.flag :: [] := rfl
  rw [hshape, hframed, unstuff_stuff, classify_valid]
  exact Bool.eq_false_iff.2 fun hvalid => hfold ((frameValid_iff _ _ _).1 hvalid).2.2

/-! ### The pseudo-operation -/

/-- `FCS_UPDATE` of each byte answers `OK` and leaves the fold (R87). -/
theorem runOps_map_fcsUpdate (bytes : List Byte) (s : State) (hresponse : s.response = .done) :
    runOps (bytes.map .fcsUpdate) s =
      some ({ s with fcsAcc := fcsFold s.fcsAcc bytes, response := .done },
        List.replicate bytes.length ⟨.done, []⟩) := by
  induction bytes generalizing s with
  | nil => rw [← hresponse]; rfl
  | cons b rest ih =>
    rw [List.map_cons, runOps_cons_next (exec_fcsUpdate b s), ih _ rfl, observe_of_done rfl]
    rfl

/-- Settles O9: the accumulator is loaded, folded over the bytes, and reported. -/
theorem fcsFrameReturnsFcsOfItsBytes : Obligations.FcsFrameReturnsFcsOfItsBytes := by
  intro bytes s f last
  rw [fcsFrame, List.cons_append, runOps_cons_next (exec_fcsInit s),
    runOps_append (runOps_map_fcsUpdate bytes _ rfl), runOps_cons_next (exec_fcsFinal _), observe_of_done rfl]
  rfl

/-! ### Unstuffing -/

/-- R124: every two raw octets emit one at least; an escape pending at the start has emitted nothing yet, and one at the
end is not emitted. -/
theorem length_le_unstuffFrom (pending : Bool) (r : List Byte) :
    pending.toNat + r.length ≤ 2 * (unstuffFrom pending r).1.length + (unstuffFrom pending r).2.toNat := by
  induction r generalizing pending with
  | nil => simp
  | cons x rest ih =>
    have hstep : pending.toNat + 1 ≤
        2 * (unescapeStep pending x).2.toList.length + (unescapeStep pending x).1.toNat := by
      unfold unescapeStep
      split_ifs with hpending hmarker
      · simp [hpending]
      · simp [hpending]
      · simp [hpending]
    have hrest := ih (unescapeStep pending x).1
    rw [unstuffFrom_cons, List.length_append, List.length_cons]
    dsimp only
    omega

/-- Settles O12: the step by its two tests, and the two bounds. -/
theorem unstuffingEmitsWithinBounds : Obligations.UnstuffingEmitsWithinBounds := by
  refine ⟨unescapeStep_pending, unescapeStep_marker, fun _ => unescapeStep_plain,
    fun r => ⟨length_unstuffFrom_le false r, ?_⟩⟩
  exact (Nat.zero_add r.length).symm.trans_le (length_le_unstuffFrom false r)

end Sys2Proof
end

section
/-! PROOFS. The Sender call by call: where a write stores (spec/20_memory.md R55), what a read does to the head
(spec/44_sender.md R183), and how often and when a retryable frame is sent (R187, R188, R194). -/

namespace Sys2Proof

open Machine

/-! ### Where a write stores -/

/-- R55: behind a canonical buffer's bytes stand the appended ones, and every other address reads as before. -/
theorem read_append {m : Memory} (hwf : m.wf = true) (v : List Byte) :
    (∀ i, i < v.length → (Memory.ofBytes (m.bytes ++ v)).read (m.length + i) = v[i]?) ∧
    ∀ a, (∀ i, i < v.length → a ≠ m.length + i) → (Memory.ofBytes (m.bytes ++ v)).read a = m.read a := by
  refine ⟨fun i _ => ?_, fun a ha => ?_⟩
  · rw [read_ofBytes, ← length_bytes, List.getElem?_append_right (Nat.le_add_right _ _), Nat.add_sub_cancel_left]
  · rw [read_ofBytes, read_of_wf hwf]
    by_cases hlt : a < m.length
    · exact List.getElem?_append_left (by rwa [length_bytes])
    · have hout : m.length + v.length ≤ a := by
        by_contra hin
        exact ha (a - m.length) (by omega) (by omega)
      rw [List.getElem?_eq_none (by simpa using hout), List.getElem?_eq_none (by rw [length_bytes]; omega)]

/-- Settles O24: both writes append to their buffer. -/
theorem writesStoreAtTailOnly : Obligations.WritesStoreAtTailOnly :=
  ⟨fun bytes s hwf hfit => ⟨_, exec_rxWrite_of_fits hfit, by simp, read_append hwf bytes⟩,
    fun _ payload _ _ _ hwf hprio hfit hdepth =>
      ⟨_, exec_txWriteFrame_of_room hprio hfit hdepth, by simp, read_append hwf payload⟩⟩

/-! ### What a read does to the head -/

section Head

variable {s t : State} {h : Item} {rest : List Item} {e : Nat}

/-- R183 for a head that is served: it stays with some age and attempts, or it is removed. -/
theorem serveHead_touches_head {age tries : Nat}
    (hrun : serveHead { h with ageMs := age, attempts := tries } rest s = .next t) :
    (∃ age tries, t.txq = { h with ageMs := age, attempts := tries } :: rest ∧ t.txBuf = s.txBuf) ∨
    (t.txq = rest.map (Item.afterRemoval h) ∧ t.txBuf = cut s.txBuf h.off h.len) := by
  obtain ⟨-, heq⟩ | ⟨-, -, heq⟩ | ⟨-, -, heq⟩ := serveHead_cases _ rest s
  · obtain rfl := next_inj (heq.symm.trans hrun)
    exact .inr ⟨rfl, rfl⟩
  · obtain rfl := next_inj (heq.symm.trans hrun)
    exact .inl ⟨age, tries, rfl, rfl⟩
  · obtain rfl := next_inj (heq.symm.trans hrun)
    exact .inr ⟨rfl, rfl⟩

/-- A read that completes was given a time that fits. -/
theorem timeFits_of_exec_txRead (hrun : exec (.txRead e) s = .next t) : s.params.timeFits e = true :=
  (elapsedAbove_eq_false s.params e).1 (bounded_next hrun).1

/-! ### A retryable head, call by call -/

/-- `t` is of the instance of `s` and holds its `TX_BUF`, and its head is `h` but for age and attempts. -/
def HeadAt (s : State) (h : Item) (age tries : Nat) (t : State) : Prop :=
  t.params = s.params ∧ t.txBuf = s.txBuf ∧ ∃ rest, t.txq = { h with ageMs := age, attempts := tries } :: rest

theorem observe_of_sent_zero (hresponse : t.response = .sent 0) : observe t = ⟨.sent 0, []⟩ := by
  simp [observe, resultBytes, hresponse, memRead]

theorem observe_of_sent {out : List Byte} (hresponse : t.response = .sent out.length)
    (hout : t.txOut = Memory.ofBytes out) : observe t = ⟨.sent out.length, out⟩ := by
  rw [observe, resultBytes_sent hresponse, hresponse, hout, memRead_ofBytes_length]

theorem observe_of_error {err : Error} (hresponse : t.response = .error err) : observe t = ⟨.error err, []⟩ := by
  simp [observe, resultBytes, hresponse]

/-- R189: a retryable head that is served within its attempts is sent and stays. -/
theorem serveHead_sends {age tries : Nat} (hretry : h.retryable = true) (hleft : tries ≤ s.params.writeRetries + 1) :
    ∃ t, serveHead { h with ageMs := age, attempts := tries } rest s = .next t ∧ HeadAt s h age tries t ∧
      observe t = ⟨.sent (itemBytes s h).length, itemBytes s h⟩ :=
  ⟨_, serveHead_of_retryable (h := { h with ageMs := age, attempts := tries }) hleft hretry, ⟨rfl, rfl, rest, rfl⟩,
    observe_of_sent rfl rfl⟩

/-- R185 for a retryable head sent before, not due: it ages. -/
theorem exec_txRead_waits (hfits : s.params.timeFits e = true) (hq : s.txq = h :: rest) (hsent : 1 ≤ h.attempts)
    (hwait : h.ageMs + e < s.params.writeTimeoutMs) :
    ∃ t, exec (.txRead e) s = .next t ∧ HeadAt s h (h.ageMs + e) h.attempts t ∧ observe t = ⟨.sent 0, []⟩ :=
  ⟨_, exec_txRead_of_waiting hfits hq hsent hwait, ⟨rfl, rfl, rest, rfl⟩, observe_of_sent_zero rfl⟩

/-- R185 for a retryable head that is due with attempts left: it is sent again. -/
theorem exec_txRead_resends (hfits : s.params.timeFits e = true) (hq : s.txq = h :: rest) (hretry : h.retryable = true)
    (hsent : 1 ≤ h.attempts) (hdue : s.params.writeTimeoutMs ≤ h.ageMs + e)
    (hleft : h.attempts ≤ s.params.writeRetries) :
    ∃ t, exec (.txRead e) s = .next t ∧ HeadAt s h 0 (h.attempts + 1) t ∧
      observe t = ⟨.sent (itemBytes s h).length, itemBytes s h⟩ := by
  rw [exec_txRead_of_due hfits hq hsent hdue]
  exact serveHead_sends hretry (Nat.succ_le_succ hleft)

/-- R185 for a retryable head that is due with no attempts left: the timeout is raised. -/
theorem exec_txRead_fails (hfits : s.params.timeFits e = true) (hq : s.txq = h :: rest)
    (hdue : s.params.writeTimeoutMs ≤ h.ageMs + e) (hnone : s.params.writeRetries < h.attempts) :
    ∃ t, exec (.txRead e) s = .next t ∧ observe t = ⟨.error .txTimeout, []⟩ :=
  ⟨_, exec_txRead_of_exhausted hfits hq hnone hdue, observe_of_error rfl⟩

/-- R186 for a retryable head never sent. -/
theorem exec_txRead_sends (hfits : s.params.timeFits e = true) (hq : s.txq = h :: rest) (hretry : h.retryable = true)
    (hunsent : h.attempts = 0) :
    ∃ t, exec (.txRead e) s = .next t ∧ HeadAt s h h.ageMs 1 t ∧
      observe t = ⟨.sent (itemBytes s h).length, itemBytes s h⟩ := by
  rw [exec_txRead_of_unsent hfits hq hunsent]
  exact serveHead_sends hretry (Nat.le_add_left _ _)

/-- All one read can do with a retryable head that is within its attempts: it waits, it is sent once more, or it was
sent `WRITE_RETRIES + 1` times and fails. -/
theorem exec_txRead_retryable (hq : s.txq = h :: rest) (hretry : h.retryable = true)
    (hleft : h.attempts ≤ s.params.writeRetries + 1) (hrun : exec (.txRead e) s = .next t) :
    (∃ age, HeadAt s h age h.attempts t ∧ observe t = ⟨.sent 0, []⟩) ∨
    (h.attempts ≤ s.params.writeRetries ∧ ∃ age, HeadAt s h age (h.attempts + 1) t ∧
      observe t = ⟨.sent (itemBytes s h).length, itemBytes s h⟩) ∨
    (h.attempts = s.params.writeRetries + 1 ∧ observe t = ⟨.error .txTimeout, []⟩) := by
  have hfits := timeFits_of_exec_txRead hrun
  obtain hunsent | hsent := Nat.eq_zero_or_pos h.attempts
  · obtain ⟨t', heq, hhead, hobs⟩ := exec_txRead_sends hfits hq hretry hunsent
    obtain rfl := next_inj (heq.symm.trans hrun)
    exact .inr (.inl ⟨by omega, h.ageMs, by rwa [hunsent], hobs⟩)
  · obtain hwait | hdue := Nat.lt_or_ge (h.ageMs + e) s.params.writeTimeoutMs
    · obtain ⟨t', heq, hhead, hobs⟩ := exec_txRead_waits hfits hq hsent hwait
      obtain rfl := next_inj (heq.symm.trans hrun)
      exact .inl ⟨_, hhead, hobs⟩
    · obtain hmore | hnone := Nat.lt_or_ge s.params.writeRetries h.attempts
      · obtain ⟨t', heq, hobs⟩ := exec_txRead_fails hfits hq hdue hmore
        obtain rfl := next_inj (heq.symm.trans hrun)
        exact .inr (.inr ⟨by omega, hobs⟩)
      · obtain ⟨t', heq, hhead, hobs⟩ := exec_txRead_resends hfits hq hretry hsent hdue hnone
        obtain rfl := next_inj (heq.symm.trans hrun)
        exact .inr (.inl ⟨hnone, _, hhead, hobs⟩)

/-- R187, R188: a read of a retryable head sent before always completes, and what it answers is told by whether the
head is due and has attempts left. -/
theorem exec_txRead_answers (hfits : s.params.timeFits e = true) (hq : s.txq = h :: rest) (hretry : h.retryable = true)
    (hsent : 1 ≤ h.attempts) :
    ∃ t, exec (.txRead e) s = .next t ∧
      (¬ s.params.writeTimeoutMs ≤ h.ageMs + e → observe t = ⟨.sent 0, []⟩) ∧
      (s.params.writeTimeoutMs ≤ h.ageMs + e → h.attempts ≤ s.params.writeRetries →
        observe t = ⟨.sent (itemBytes s h).length, itemBytes s h⟩) ∧
      (s.params.writeTimeoutMs ≤ h.ageMs + e → s.params.writeRetries < h.attempts →
        observe t = ⟨.error .txTimeout, []⟩) := by
  by_cases hdue : s.params.writeTimeoutMs ≤ h.ageMs + e
  · obtain hnone | hleft := Nat.lt_or_ge s.params.writeRetries h.attempts
    · obtain ⟨t, hexec, hobs⟩ := exec_txRead_fails hfits hq hdue hnone
      exact ⟨t, hexec, absurd hdue, fun _ hleft => absurd hnone hleft.not_gt, fun _ _ => hobs⟩
    · obtain ⟨t, hexec, -, hobs⟩ := exec_txRead_resends hfits hq hretry hsent hdue hleft
      exact ⟨t, hexec, absurd hdue, fun _ _ => hobs, fun _ hnone => absurd hnone hleft.not_gt⟩
  · obtain ⟨t, hexec, -, hobs⟩ := exec_txRead_waits hfits hq hsent (Nat.lt_of_not_le hdue)
    exact ⟨t, hexec, fun _ => hobs, fun h => absurd h hdue, fun h => absurd h hdue⟩

end Head

/-- Settles O34: the head is served, or it waits and ages. -/
theorem txReadTouchesOnlyHead : Obligations.TxReadTouchesOnlyHead := by
  intro e s t h rest hq hrun
  have hcons := (exec_txRead_of_cons (timeFits_of_exec_txRead hrun) hq).symm.trans hrun
  split_ifs at hcons
  · exact serveHead_touches_head hcons
  · exact serveHead_touches_head hcons
  · obtain rfl := next_inj hcons
    exact .inl ⟨_, h.attempts, rfl, rfl⟩

/-! ### Runs of reads -/

/-- R194 from any number of attempts: the transmissions before the failure are those that are left. -/
theorem transmissions_before_timeout {s t : State} {h : Item} {rest : List Item} {ticks : List Nat}
    {before after : List Observed} {failure : Observed} (hq : s.txq = h :: rest) (hretry : h.retryable = true)
    (hleft : h.attempts ≤ s.params.writeRetries + 1)
    (hrun : runOps (ticks.map Instr.txRead) s = some (t, before ++ failure :: after))
    (hfailure : failure.result = .error .txTimeout) (hbefore : ∀ o ∈ before, o.result ≠ .error .txTimeout) :
    (∀ o ∈ before, o = ⟨.sent 0, []⟩ ∨ o = ⟨.sent (itemBytes s h).length, itemBytes s h⟩) ∧
    transmissions before + h.attempts = s.params.writeRetries + 1 := by
  induction ticks generalizing s h rest before with
  | nil => simp at hrun
  | cons e ticks ih =>
    obtain ⟨u, os, hexec, htail, hos⟩ := runOps_cons_some hrun
    have hcall := exec_txRead_retryable hq hretry hleft hexec
    cases before with
    | nil =>
      obtain ⟨rfl, -⟩ := List.cons.inj hos
      obtain ⟨_, -, hobs⟩ | ⟨-, _, -, hobs⟩ | ⟨hall, -⟩ := hcall
      · rw [hobs] at hfailure; cases hfailure
      · rw [hobs] at hfailure; cases hfailure
      · exact ⟨List.forall_mem_nil _, by simpa using hall⟩
    | cons o before =>
      obtain ⟨rfl, rfl⟩ := List.cons.inj hos
      obtain ⟨hfirst, hothers⟩ := List.forall_mem_cons.1 hbefore
      obtain ⟨_, ⟨hparams, hbuf, _, htxq⟩, hobs⟩ | ⟨hmore, _, ⟨hparams, hbuf, _, htxq⟩, hobs⟩ | ⟨-, hobs⟩ := hcall
      · obtain ⟨hform, hcount⟩ := ih htxq hretry (by rwa [hparams]) htail hothers
        rw [itemBytes, hbuf] at hform
        rw [hobs, transmissions_zero]
        exact ⟨List.forall_mem_cons.2 ⟨.inl rfl, hform⟩, hparams ▸ hcount⟩
      · obtain ⟨hform, hcount⟩ := ih htxq hretry (by rw [hparams]; exact Nat.succ_le_succ hmore) htail hothers
        rw [itemBytes, hbuf] at hform
        have hpos : 0 < (itemBytes s h).length := lt_of_lt_of_le (by decide) (length_itemBytes_bounds s h).1
        rw [hobs, transmissions_sent hpos]
        refine ⟨List.forall_mem_cons.2 ⟨.inr rfl, hform⟩, ?_⟩
        rw [hparams] at hcount
        dsimp only at hcount
        omega
      · exact absurd (by rw [hobs]) hfirst

/-- Settles O39: none of its attempts is made yet. -/
theorem retryableFrameIsSentRetriesPlusOneTimes : Obligations.RetryableFrameIsSentRetriesPlusOneTimes := by
  intro s t h rest ticks before after failure hq hretry hunsent hrun hfailure hbefore
  obtain ⟨hform, hcount⟩ :=
    transmissions_before_timeout hq hretry (hunsent ▸ Nat.zero_le _) hrun hfailure hbefore
  exact ⟨hform, by rwa [hunsent] at hcount⟩

/-- R187: while the told times sum below the timeout, the head only ages by them. -/
theorem runOps_waits {s : State} {h : Item} {rest : List Item} {waits : List Nat} (hq : s.txq = h :: rest)
    (hsent : 1 ≤ h.attempts) (hfits : ∀ e ∈ waits, s.params.timeFits e = true)
    (hwait : waits = [] ∨ h.ageMs + waits.sum < s.params.writeTimeoutMs) :
    ∃ t, HeadAt s h (h.ageMs + waits.sum) h.attempts t ∧
      runOps (waits.map Instr.txRead) s = some (t, List.replicate waits.length ⟨.sent 0, []⟩) := by
  induction waits generalizing s h rest with
  | nil => exact ⟨s, ⟨rfl, rfl, rest, hq⟩, rfl⟩
  | cons e waits ih =>
    obtain ⟨hfit, hfits⟩ := List.forall_mem_cons.1 hfits
    have hsum : h.ageMs + (e + waits.sum) < s.params.writeTimeoutMs := by
      simpa using hwait.resolve_left (List.cons_ne_nil _ _)
    obtain ⟨u, hexec, ⟨hparams, hbuf, _, htxq⟩, hobs⟩ := exec_txRead_waits hfit hq hsent (by omega)
    obtain ⟨t, ⟨hparams', hbuf', rest', htxq'⟩, hrun⟩ := ih htxq hsent (by rwa [hparams])
      (.inr (by rw [hparams]; dsimp only; omega))
    refine ⟨t, ⟨hparams'.trans hparams, hbuf'.trans hbuf, rest', ?_⟩, ?_⟩
    · rw [htxq', List.sum_cons, Nat.add_assoc]
    · rw [List.map_cons, runOps_cons_next hexec, hrun, hobs]
      rfl

/-- Settles O40: after the waits the head has aged by their sum, and the last call is one of three. -/
theorem noRetryBeforeTimeout : Obligations.NoRetryBeforeTimeout := by
  intro s h rest waits last hq hretry hsent hfits hwait out due
  obtain ⟨hwaits, hlast⟩ := List.forall_mem_append.1 hfits
  obtain ⟨u, ⟨hparams, hbuf, rest', htxq⟩, hrun⟩ := runOps_waits hq hsent hwaits hwait
  have hfit : u.params.timeFits last = true := hparams ▸ hlast last (List.mem_singleton_self _)
  have hout : itemBytes u h = out := by rw [itemBytes, hbuf]
  obtain ⟨t, hexec, hanswers⟩ := exec_txRead_answers hfit htxq hretry hsent
  rw [hparams] at hanswers
  refine ⟨(length_itemBytes_bounds s h).1, t, observe t, ?_, hout ▸ hanswers⟩
  rw [List.map_append, runOps_append hrun, List.map_singleton, runOps_cons_next hexec]
  rfl

end Sys2Proof
end

section
/-! PROOFS. The raw octet stream: the table of R88 and the byte-serial parser through garbage, opening flags and content
(spec/30_encoding.md R71 to R79, R88, spec/42_frame_codec.md R148). -/

namespace Sys2Proof

open Machine

/-! ### The table, one octet -/

/-- The place in content by whether an escape is pending. -/
def contentPlace : Bool → Place
  | false => .content
  | true => .pending

theorem place_of_content {sc : Scan} (h : sc.phase = .content) : sc.place = contentPlace sc.pending := by
  cases hp : sc.pending with
  | false => exact place_content h hp
  | true => exact place_pending h hp

/-- In content the table is the unescape step of R123. -/
theorem readOctet_contentPlace (pending : Bool) {x : Byte} (hx : x ≠ Config.flag) :
    readOctet (contentPlace pending) x =
      { after := contentPlace (unescapeStep pending x).1,
        decoded := (unescapeStep pending x).2.toList, frameEnds := [] } := by
  cases pending with
  | true => simp [contentPlace, readOctet, hx]
  | false =>
    by_cases he : x = Config.escape
    · subst he; decide
    · simp [contentPlace, readOctet, hx, he, unescapeStep_plain he]

/-- The first octet of content is read as any other with no escape pending. -/
theorem readOctet_opening {x : Byte} (hx : x ≠ Config.flag) :
    readOctet .opening x = readOctet (contentPlace false) x := by
  simp [readOctet, contentPlace, hx]

theorem readOctet_hunt {x : Byte} (hx : x ≠ Config.flag) :
    readOctet .hunt x = { after := .hunt, decoded := [], frameEnds := [] } := by
  simp [readOctet, hx]

/-! ### The table, octet after octet -/

theorem readOctets_hunt {g : List Byte} (hg : Config.flag ∉ g) :
    readOctets .hunt g = { after := .hunt, decoded := [], frameEnds := [] } := by
  induction g with
  | nil => rfl
  | cons x g ih =>
    obtain ⟨hx, hg⟩ := flag_not_mem_cons.1 hg
    simp [readOctet_hunt hx, ih hg]

theorem readOctets_open_flags (n : Nat) :
    readOctets .opening (List.replicate n Config.flag) = { after := .opening, decoded := [], frameEnds := [] } := by
  induction n with
  | zero => rfl
  | succ n ih =>
    have hflag : readOctet .opening Config.flag = { after := .opening, decoded := [], frameEnds := [] } := rfl
    rw [List.replicate_succ, readOctets_cons, hflag, ih]
    rfl

/-- Flag-free content is unstuffed (R123, R124). -/
theorem readOctets_contentPlace (pending : Bool) {body : List Byte} (hbody : Config.flag ∉ body) :
    readOctets (contentPlace pending) body =
      { after := contentPlace (unstuffFrom pending body).2,
        decoded := (unstuffFrom pending body).1, frameEnds := [] } := by
  induction body generalizing pending with
  | nil => rfl
  | cons x body ih =>
    obtain ⟨hx, hbody⟩ := flag_not_mem_cons.1 hbody
    rw [readOctets_cons, readOctet_contentPlace pending hx, ih _ hbody, unstuffFrom_cons]
    rfl

theorem readOctets_opening {body : List Byte} (hne : body ≠ []) (hbody : Config.flag ∉ body) :
    readOctets .opening body = readOctets (contentPlace false) body := by
  obtain ⟨x, rest, rfl⟩ := List.exists_cons_of_ne_nil hne
  rw [readOctets_cons, readOctets_cons, readOctet_opening (flag_not_mem_cons.1 hbody).1]

/-- A flag in content ends a frame, and says whether an escape was pending. -/
theorem readOctets_frame_end (pending : Bool) :
    readOctets (contentPlace pending) [Config.flag] = { after := .opening, decoded := [], frameEnds := [pending] } := by
  cases pending <;> rfl

/-- From `HUNT`, one frame: its content unstuffed, and whether an escape was left pending. -/
theorem readOctets_framed {g body : List Byte} {n : Nat} (hg : Config.flag ∉ g) (hn : 1 ≤ n) (hne : body ≠ [])
    (hbody : Config.flag ∉ body) :
    readOctets .hunt (g ++ List.replicate n Config.flag ++ body ++ [Config.flag]) =
      { after := .opening, decoded := (unstuff body).1, frameEnds := [(unstuff body).2] } := by
  obtain ⟨m, rfl⟩ := Nat.exists_eq_add_of_le' hn
  have hflags : readOctets .hunt (List.replicate (m + 1) Config.flag) =
      { after := .opening, decoded := [], frameEnds := [] } := readOctets_open_flags m
  rw [readOctets_append, readOctets_append, readOctets_append, readOctets_hunt hg, hflags, readOctets_opening hne hbody,
    readOctets_contentPlace false hbody, readOctets_frame_end]
  simp [unstuff]

/-! ### The parser, octet after octet -/

/-- An octet that ends no frame takes the parser one octet further. -/
theorem scan_octets_cons_of_none {sc sc' : Scan} {x : Byte} (h : sc.octet x = (sc', none)) (rest : List Byte) :
    sc.octets (x :: rest) = sc'.octets rest := by
  rw [scan_octets_cons, h]
  rfl

/-- So do several. -/
theorem scan_octets_append_of_nil {sc sc' : Scan} {xs : List Byte} (h : sc.octets xs = (sc', [])) (ys : List Byte) :
    sc.octets (xs ++ ys) = sc'.octets ys := by
  rw [scan_octets_append, h]
  rfl

theorem scan_octets_hunt {sc : Scan} (h : sc.phase = .hunt) {g : List Byte} (hg : Config.flag ∉ g) :
    sc.octets g = ({ sc with index := sc.index + g.length }, []) := by
  induction g generalizing sc with
  | nil => rfl
  | cons x g ih =>
    obtain ⟨hx, hg⟩ := flag_not_mem_cons.1 hg
    rw [scan_octets_cons_of_none (scan_octet_hunt h hx), ih (sc := { sc with index := sc.index + 1 }) h hg,
      List.length_cons, Nat.add_assoc, Nat.add_comm 1]

theorem scan_octets_open_flags {sc : Scan} (h : sc.phase = .opening) (n : Nat) :
    sc.octets (List.replicate n Config.flag) = ({ sc with index := sc.index + n }, []) := by
  induction n generalizing sc with
  | zero => rfl
  | succ n ih =>
    have hflag : sc.octet Config.flag = (sc.advance, none) := by simp [Scan.octet, h]
    rw [List.replicate_succ, scan_octets_cons_of_none hflag, ih (sc := sc.advance) h, Scan.advance, Nat.add_assoc,
      Nat.add_comm 1]

/-- The first flag opens. -/
theorem scan_octets_hunt_flags {sc : Scan} (h : sc.phase = .hunt) {n : Nat} (hn : 1 ≤ n) :
    sc.octets (List.replicate n Config.flag) = ({ sc with phase := .opening, index := sc.index + n }, []) := by
  obtain ⟨m, rfl⟩ := Nat.exists_eq_add_of_le' hn
  have hflag : sc.octet Config.flag = ({ sc.advance with phase := .opening }, none) := by simp [Scan.octet, h]
  rw [List.replicate_succ, scan_octets_cons_of_none hflag, scan_octets_open_flags rfl, Scan.advance, Nat.add_assoc,
    Nat.add_comm 1]

/-- The parser when it has taken raw octets of content: they are unstuffed, stored and folded. -/
def scanTaken (sc : Scan) (xs : List Byte) : Scan :=
  { sc with
    index := sc.index + xs.length
    pending := (unstuffFrom sc.pending xs).2
    acc := fcsFold sc.acc (unstuffFrom sc.pending xs).1
    decoded := sc.decoded ++ (unstuffFrom sc.pending xs).1 }

theorem scan_octets_content {sc : Scan} (h : sc.phase = .content) {xs : List Byte} (hxs : Config.flag ∉ xs) :
    sc.octets xs = (scanTaken sc xs, []) := by
  induction xs generalizing sc with
  | nil => simp [scanTaken]
  | cons x xs ih =>
    obtain ⟨hx, hxs⟩ := flag_not_mem_cons.1 hxs
    rw [scan_octets_cons_of_none (scan_octet_content h hx),
      ih (sc := (sc.take x).advance) (by simp [Scan.advance, h]) hxs]
    simp [scanTaken, scan_take_eq, Scan.advance, unstuffFrom_cons, Nat.add_assoc, Nat.add_comm 1]

/-- The first octet of content is taken with the registers set anew. -/
theorem scan_octets_opening {sc : Scan} (h : sc.phase = .opening) {xs : List Byte} (hne : xs ≠ [])
    (hxs : Config.flag ∉ xs) : sc.octets xs = (scanTaken sc.beginContent xs, []) := by
  obtain ⟨x, rest, rfl⟩ := List.exists_cons_of_ne_nil hne
  have hx := (flag_not_mem_cons.1 hxs).1
  have hbegun : sc.beginContent.phase = .content := rfl
  rw [← scan_octets_content hbegun hxs, scan_octets_cons_of_none (scan_octet_opening h hx),
    scan_octets_cons_of_none (scan_octet_content hbegun hx)]

/-- From the start, one frame: what the parser classifies at its end flag. -/
theorem scan_octets_framed {g body : List Byte} {n : Nat} (hg : Config.flag ∉ g) (hn : 1 ≤ n) (hne : body ≠ [])
    (hbody : Config.flag ∉ body) :
    Scan.start.octets (g ++ List.replicate n Config.flag ++ body ++ [Config.flag]) =
      (Scan.reopened, [classify (g.length + n + body.length) (unstuff body).1 (unstuff body).2
        (fcsFold Config.fcsInit (unstuff body).1)]) := by
  rw [List.append_assoc, List.append_assoc, scan_octets_append_of_nil (scan_octets_hunt rfl hg),
    scan_octets_append_of_nil (scan_octets_hunt_flags rfl hn),
    scan_octets_append_of_nil (scan_octets_opening rfl hne hbody), scan_octets_cons, scan_octet_frame_end rfl]
  simp [scanTaken, Scan.beginContent, Scan.start, unstuff]

/-! ### One octet -/

/-- In content the accumulator stays the fold of what was decoded (R148). -/
theorem coherent_octet {sc : Scan} (h : sc.Coherent) (x : Byte) : (sc.octet x).1.Coherent := by
  have htake {sc : Scan} (hacc : sc.acc = fcsFold Config.fcsInit sc.decoded) :
      (sc.take x).advance.Coherent := fun _ => by
    rw [scan_take_eq, Scan.advance]
    dsimp only
    rw [fcsFold_append, ← hacc]
  unfold Scan.octet
  cases hphase : sc.phase with
  | hunt =>
    dsimp only
    split_ifs
    · exact fun hcontent => nomatch hcontent
    · exact fun hcontent => nomatch hphase.symm.trans hcontent
  | opening =>
    dsimp only
    split_ifs
    · exact fun hcontent => nomatch hphase.symm.trans hcontent
    · exact htake rfl
  | content =>
    dsimp only
    split_ifs
    · exact fun hcontent => nomatch hcontent
    · exact htake (h hphase)

/-- Settles O57: with a flag and something consumed the input is framed, and its octets up to the end flag run both
through their parts. -/
theorem wireUnitsRunTheDecoder : Obligations.WireUnitsRunTheDecoder := by
  refine ⟨fun input hflag hpos => ?_, fun _ x h => coherent_octet h x⟩
  cases inputShape input with
  | flagFree h => exact absurd hflag h
  | waiting hg hn hbody =>
    rw [decodeFrame_waiting hg hn hbody, noFrame_consumed] at hpos
    exact absurd hpos (by decide)
  | @framed g body n t hg hn hne hbody =>
    have hdecode := decodeFrame_framed t hg hn hne hbody
    have htake : (g ++ List.replicate n Config.flag ++ body ++ Config.flag :: t).take (g.length + n + body.length + 1) =
        g ++ List.replicate n Config.flag ++ body ++ [Config.flag] := by
      rw [← length_garbage_flags_body, List.take_append, List.take_of_length_le (Nat.le_succ _),
        Nat.add_sub_cancel_left]
      rfl
    rw [hdecode, classify_consumed, htake, classify_valid, classify_frame]
    refine ⟨by rw [scan_octets_framed hg hn hne hbody], fun s => ⟨_, (unstuff body).2, takeRawOctets_eq _ s, ?_⟩⟩
    rw [readings_hunt, readOctets_framed hg hn hne hbody]
    exact ⟨rfl, frameValid_iff _ _ _, by unfold frameOfContent; rfl⟩

end Sys2Proof
end

section
/-! PROOFS. The wire rows: what each answers for the four places of a scan, and what its octets do to the byte-serial
parser (spec/30_encoding.md R71, R72, R78, R79, R88). -/

namespace Sys2Proof

open Machine

/-! ### What octets mean at the four places -/

/-- An octet that is not reserved: garbage, itself, or after a marker the XOR (R88, last column). -/
theorem readings_plain {x : Byte} (hflag : x ≠ Config.flag) (hmarker : x ≠ Config.escape) :
    readings [x] =
      ⟨⟨.hunt, [], []⟩, ⟨.content, [x], []⟩, ⟨.content, [x], []⟩, ⟨.content, [x ^^^ 0x20], []⟩⟩ := by
  have hcontent : readOctet .content x = ⟨.content, [x], []⟩ := by
    rw [show Place.content = contentPlace false from rfl, readOctet_contentPlace false hflag,
      unescapeStep_plain hmarker]
    rfl
  have hpending : readOctet .pending x = ⟨.content, [x ^^^ 0x20], []⟩ := readOctet_contentPlace true hflag
  have hopening : readOctet .opening x = readOctet .content x := readOctet_opening hflag
  simp [readings, hopening, hcontent, hpending, readOctet_hunt hflag]

/-- An escaped octet: garbage before any flag, the octet in content and after the opening flags; after a marker the
first of its octets is the one that is XORed. -/
theorem readings_escapeOctet (v : Byte) :
    readings (escapeOctet v) =
      ⟨⟨.hunt, [], []⟩, ⟨.content, [v], []⟩, ⟨.content, [v], []⟩,
        ⟨.content, if v = 0x7E ∨ v = 0x7D then [0x5D, v ^^^ 0x20] else [v ^^^ 0x20], []⟩⟩ := by
  obtain ⟨rfl, heq⟩ | ⟨rfl, heq⟩ | ⟨hflag, hmarker, heq⟩ := escapeOctet_units v
  · rw [heq]; decide
  · rw [heq]; decide
  · rw [heq, readings_plain hflag hmarker, if_neg (not_or.2 ⟨hflag, hmarker⟩)]

/-! ### What octets do to the parser -/

/-- An escaped octet after the opening flags begins content with that octet. -/
theorem scan_octets_escapeOctet_opening {sc : Scan} (h : sc.phase = .opening) (v : Byte) :
    sc.octets (escapeOctet v) =
      ({ phase := .content, index := sc.index + (escapeOctet v).length, pending := false,
         acc := fcsUpdate Config.fcsInit v, decoded := [v] }, []) := by
  have hne : escapeOctet v ≠ [] := by
    obtain ⟨-, heq⟩ | ⟨-, heq⟩ | ⟨-, -, heq⟩ := escapeOctet_units v <;> rw [heq] <;> exact List.cons_ne_nil _ _
  rw [scan_octets_opening h hne (flag_not_mem_escapeOctet v)]
  simp [scanTaken, Scan.beginContent]

/-- An escaped octet in content is that octet decoded. -/
theorem scan_octets_escapeOctet_content {sc : Scan} (h : sc.phase = .content) (hp : sc.pending = false) (v : Byte) :
    sc.octets (escapeOctet v) =
      ({ sc with index := sc.index + (escapeOctet v).length, acc := fcsUpdate sc.acc v, decoded := sc.decoded ++ [v] },
        []) := by
  rw [scan_octets_content h (flag_not_mem_escapeOctet v)]
  simp [scanTaken, hp]

/-! ### FLAG, ESCAPE and any other octet -/

/-- What one octet is to the parser agrees with the reading of the table at its place: where the parser stands after it,
what is decoded, and whether a frame ends, with an escape pending or not. -/
def ReadsAs (sc : Scan) (x : Byte) (r : Reading) : Prop :=
  (sc.octet x).1.place = r.after ∧
  ((sc.octet x).1.phase = .content →
    (sc.octet x).1.decoded = (if sc.phase = .content then sc.decoded else []) ++ r.decoded) ∧
  (r.frameEnds = [] → (sc.octet x).2 = none) ∧
  ∀ trailing, r.frameEnds = [trailing] →
    ∃ d, (sc.octet x).2 = some d ∧ d.consumed = sc.index ∧ (trailing = true → d.valid = false)

/-- The three parts of `ReadsAs` when no frame ends. -/
theorem readsAs_of_none {sc sc' : Scan} {x : Byte} {r : Reading} (hoctet : sc.octet x = (sc', none))
    (hends : r.frameEnds = []) (hplace : sc'.place = r.after)
    (hdecoded : sc'.phase = .content → sc'.decoded = (if sc.phase = .content then sc.decoded else []) ++ r.decoded) :
    ReadsAs sc x r := by
  rw [ReadsAs, hoctet, hends]
  exact ⟨hplace, hdecoded, fun _ => rfl, fun _ h => nomatch h⟩

/-- An octet taken in content, by a parser whose registers are `sc'`. -/
theorem readsAs_take {sc sc' : Scan} {x : Byte} (hx : x ≠ Config.flag) (hphase : sc'.phase = .content)
    (hoctet : sc.octet x = ((sc'.take x).advance, none))
    (hdecoded : sc'.decoded = if sc.phase = .content then sc.decoded else []) :
    ReadsAs sc x (readOctet (contentPlace sc'.pending) x) := by
  rw [readOctet_contentPlace sc'.pending hx]
  refine readsAs_of_none hoctet rfl ?_ fun _ => ?_
  · rw [place_of_content (by simp [Scan.advance, hphase]), scan_take_eq]
    rfl
  · rw [← hdecoded, scan_take_eq]
    rfl

/-- R88 is what the parser of R148 does, at each place. -/
theorem readsAs_readOctet (sc : Scan) (x : Byte) : ReadsAs sc x (readOctet sc.place x) := by
  cases hphase : sc.phase with
  | hunt =>
    rw [place_hunt hphase]
    by_cases hx : x = Config.flag
    · subst hx
      exact readsAs_of_none (sc' := { sc.advance with phase := .opening }) (by rw [Scan.octet, hphase]; rfl) rfl rfl
        fun h => nomatch h
    · rw [readOctet_hunt hx]
      exact readsAs_of_none (scan_octet_hunt hphase hx) rfl (place_hunt hphase) fun h => nomatch hphase.symm.trans h
  | opening =>
    rw [place_opening hphase]
    by_cases hx : x = Config.flag
    · subst hx
      exact readsAs_of_none (sc' := sc.advance) (by rw [Scan.octet, hphase]; rfl) rfl (place_opening hphase)
        fun h => nomatch hphase.symm.trans h
    · rw [readOctet_opening hx]
      exact readsAs_take (sc' := sc.beginContent) hx rfl (scan_octet_opening hphase hx)
        (by simp [hphase, Scan.beginContent])
  | content =>
    rw [place_of_content hphase]
    by_cases hx : x = Config.flag
    · subst hx
      have hread : readOctet (contentPlace sc.pending) Config.flag =
          { after := .opening, decoded := [], frameEnds := [sc.pending] } := by cases sc.pending <;> rfl
      rw [hread, ReadsAs, scan_octet_frame_end hphase]
      refine ⟨rfl, (nomatch ·), (nomatch ·), ?_⟩
      rintro _ ⟨⟩
      refine ⟨_, rfl, classify_consumed .., fun hpending => ?_⟩
      rw [classify_valid, hpending]
      simp [frameValid]
    · exact readsAs_take hx hphase (scan_octet_content hphase hx) (if_pos hphase).symm

/-- Settles O54: the two reserved octets are evaluated at each place; the parser reads by the table. -/
theorem parserReadsRawOctetByState : Obligations.ParserReadsRawOctetByState :=
  ⟨fun s => ⟨rfl, rfl, fun x hflag hmarker => by rw [takeRawOctets_eq, readings_plain hflag hmarker]⟩,
    readsAs_readOctet⟩

/-! ### The escape sequences -/

/-- After another marker the first octet of a sequence is XORed, and the second stands for itself (R123). -/
theorem scan_octets_escape_pending {sc : Scan} (h : sc.phase = .content) (hp : sc.pending = true) {y : Byte}
    (hflag : y ≠ Config.flag) (hmarker : y ≠ Config.escape) :
    sc.octets [Config.escape, y] =
      ({ sc with index := sc.index + 2, pending := false, acc := fcsUpdate (fcsUpdate sc.acc 0x5D) y,
                 decoded := sc.decoded ++ [0x5D, y] }, []) := by
  have hxor : Config.escape ^^^ Config.escXor = 0x5D := by decide
  have hfree : Config.flag ∉ [Config.escape, y] :=
    flag_not_mem_cons.2 ⟨by decide, flag_not_mem_cons.2 ⟨hflag, List.not_mem_nil⟩⟩
  rw [scan_octets_content h hfree]
  simp [scanTaken, hp, unstuffFrom_cons, unescapeStep_plain hmarker, hxor]

/-- Settles O55: the two rows are evaluated; the two octets are an escaped reserved octet. -/
theorem escapeSequencesDecodeToReservedOctets : Obligations.EscapeSequencesDecodeToReservedOctets := by
  refine ⟨fun s => ⟨rfl, rfl⟩, fun sc v hv => ?_⟩
  have hescape : escapeOctet v = [0x7D, v ^^^ 0x20] := if_pos hv
  have hfree := flag_not_mem_escapeOctet v
  have hsecond : v ^^^ 0x20 ≠ Config.flag ∧ v ^^^ 0x20 ≠ Config.escape := by
    obtain rfl | rfl := hv <;> decide
  have hhunt := fun h : sc.phase = .hunt => scan_octets_hunt h hfree
  have hopening := fun h : sc.phase = .opening => scan_octets_escapeOctet_opening h v
  have hcontent := fun (h : sc.phase = .content) hp => scan_octets_escapeOctet_content h hp v
  have hpending := fun (h : sc.phase = .content) hp => scan_octets_escape_pending h hp hsecond.1 hsecond.2
  rw [hescape] at hhunt hopening hcontent
  refine ⟨?_, fun h => congrArg Prod.fst (hhunt h), fun h => congrArg Prod.fst (hopening h),
    fun h hp => congrArg Prod.fst (hcontent h hp), fun h hp => congrArg Prod.fst (hpending h hp)⟩
  cases h : sc.phase with
  | hunt => exact congrArg Prod.snd (hhunt h)
  | opening => exact congrArg Prod.snd (hopening h)
  | content =>
    cases hp : sc.pending with
    | false => exact congrArg Prod.snd (hcontent h hp)
    | true => exact congrArg Prod.snd (hpending h hp)

/-! ### The control bytes -/

/-- Settles O56: each control row reads its variant and fields, and its octets are the control byte escaped. -/
theorem controlByteAtOffsetOneGivesFrame : Obligations.ControlByteAtOffsetOneGivesFrame := by
  unfold Obligations.ControlByteAtOffsetOneGivesFrame
  intro gives
  have hrow : ∀ i c, (∀ s, exec i s = readControl c s) → gives i c := by
    refine fun i c hexec => ⟨fun s => ⟨readings (controlOctets c), (hexec s).trans (readControl_eq c s), ?_⟩,
      fun sc a hphase hpending hdecoded => ?_⟩
    · rw [controlOctets, readings_escapeOctet]
      exact ⟨rfl, rfl, rfl, rfl⟩
    · rw [scan_octets_escapeOctet_content hphase hpending, hdecoded]
      exact ⟨rfl, by simp [Scan.frame, hphase, frameOf], rfl⟩
  exact ⟨fun _ _ _ => hrow _ _ fun _ => rfl, fun _ _ _ => hrow _ _ fun _ => rfl, fun _ _ => hrow _ _ fun _ => rfl,
    fun _ _ => hrow _ _ fun _ => rfl, fun _ _ => hrow _ _ fun _ => rfl, fun _ _ => hrow _ _ fun _ => rfl,
    fun _ _ => hrow _ _ fun _ => rfl, fun _ => hrow _ _ fun _ => rfl, fun _ => hrow _ _ fun _ => rfl⟩

end Sys2Proof
end

section
/-! PROOFS. The host's link protocol, beside the block (spec/47_host_link_protocol.md R220 to R241): what a session
does on each frame. -/

namespace Sys2Proof

open Machine

section Frames

variable {ch : HostChoices} {ss : Session} {f : Frame} {payload : List Byte}

/-! ### While connected -/

/-- R232: an Information frame that is valid and in sequence. -/
theorem onInformation_accepted {ns : BitVec 3} {v : Bool} (hvalid : v = true) (hns : ns = ss.sequenceNumber)
    (payload : List Byte) :
    ss.onInformation ch ns v payload =
      { session := { ss with sequenceNumber := ss.sequenceNumber + 1 },
        issued := [respond ch (.supervisory (ss.sequenceNumber + 1) 0 Config.receiveReady) Config.prioResponse],
        delivered := payload } := if_pos ⟨hvalid, hns⟩

/-- R232: any other Information frame. -/
theorem onInformation_rejected {ns : BitVec 3} {v : Bool} (h : v = false ∨ ns ≠ ss.sequenceNumber)
    (payload : List Byte) :
    ss.onInformation ch ns v payload =
      { session := ss,
        issued := [respond ch (.supervisory ss.sequenceNumber 1 Config.selectiveReject) Config.prioResponse],
        delivered := [] } := by
  refine if_neg fun ⟨hvalid, hns⟩ => ?_
  obtain hinvalid | hne := h
  · exact Bool.eq_false_iff.1 hinvalid hvalid
  · exact hne hns

/-- An Information frame is none of the handshake. -/
theorem onFrame_information {nr : BitVec 3} {pf : BitVec 1} {ns : BitVec 3} (hconnected : ss.initialized = true)
    (haddressed : ss.addressed f = true) (hcontrol : f.control = .information nr pf ns) (v : Bool)
    (payload : List Byte) : ss.onFrame ch f v payload = ss.onInformation ch ns v payload := by
  rw [onFrame_connected ch hconnected haddressed (fun u => by rw [hcontrol]; rfl), hcontrol]
  rfl

/-- R35: the payload is taken from `RX_PAY`. -/
theorem react_of_frameRead {s : State} {p : Nat} {v : Bool} (h : s.response = .frameRead p (some f) v) :
    ss.react ch s = ss.onFrame ch f v (memRead s.rxPay 0 p) := by
  rw [Session.react, h]

/-- R230: a valid Receive-Ready removes the frame it acknowledges. -/
theorem onFrame_receiveReady {nr : BitVec 3} {pf : BitVec 1} (hconnected : ss.initialized = true)
    (haddressed : ss.addressed f = true) (hcontrol : f.control = .supervisory nr pf Config.receiveReady)
    (payload : List Byte) :
    ss.onFrame ch f true payload =
      { session := ss, issued := [.txRemove .information (acknowledgedKey nr)], delivered := [] } := by
  rw [onFrame_connected ch hconnected haddressed (fun u => by rw [hcontrol]; rfl), hcontrol]
  rfl

/-- The number acknowledged is the one before `nr`, modulo 8 (R230). -/
theorem toNat_acknowledgedKey (nr : BitVec 3) : (acknowledgedKey nr).toNat = (nr.toNat + 7) % 8 := by
  revert nr; decide

/-- R190 for the key of an acknowledgement. -/
theorem itemMatches_acknowledgedKey (nr : BitVec 3) (it : Item) :
    itemMatches .information (acknowledgedKey nr) it = true ↔
      1 ≤ it.attempts ∧ ∃ a q b, it.frame.control = .information a q b ∧ b.toNat = (nr.toNat + 7) % 8 := by
  rw [itemMatches_iff, ← toNat_acknowledgedKey]
  refine and_congr_right fun _ => ?_
  cases it.frame.control with
  | information a q b =>
    rw [keyMatches_information]
    constructor
    · exact fun h => ⟨a, q, b, rfl, h⟩
    · rintro ⟨_, _, _, ⟨⟩, h⟩
      exact h
  | supervisory a q stype => exact iff_of_false Bool.false_ne_true fun ⟨_, _, _, h, _⟩ => nomatch h
  | unnumbered q utype => exact iff_of_false Bool.false_ne_true fun ⟨_, _, _, h, _⟩ => nomatch h

/-! ### The handshake -/

/-- R234: a frame for a master goes to the master's rules. -/
theorem onFrame_of_master (hrole : ss.role = .master) (haddress : f.address = ss.peerAddress) (v : Bool)
    (payload : List Byte) : ss.onFrame ch f v payload = ss.onMasterFrame ch f.control v payload := by
  have haddressed : ss.addressed f = true := (addressed_iff ss f).2 ⟨fun _ => haddress, by simp [hrole]⟩
  simp only [Session.onFrame, haddressed, hrole]

/-- R234: a frame for a slave goes to the slave's rules. -/
theorem onFrame_of_slave (hrole : ss.role = .slave) (haddress : f.address = ss.configuredAddress) (v : Bool)
    (payload : List Byte) : ss.onFrame ch f v payload = ss.onSlaveFrame ch f.control v payload := by
  have haddressed : ss.addressed f = true := (addressed_iff ss f).2 ⟨by simp [hrole], fun _ => haddress⟩
  simp only [Session.onFrame, haddressed, hrole]

theorem isUnnumbered_eq_false {c : Control} {utype : BitVec 5} (h : ∀ pf, c ≠ .unnumbered pf utype) :
    isUnnumbered utype c = false := by
  cases c with
  | information nr pf ns => rfl
  | supervisory nr pf stype => rfl
  | unnumbered pf u => exact beq_eq_false_iff_ne.2 fun hu => h pf (hu ▸ rfl)

/-- R225: a valid acknowledge connects a master. -/
theorem onMasterFrame_acknowledge {pf : BitVec 1} (payload : List Byte) :
    ss.onMasterFrame ch (.unnumbered pf Config.acknowledge) true payload =
      { session := { ss with initialized := true }, issued := [.txRemove .unnumbered Config.modeSet],
        delivered := [] } := by
  simp [Session.onMasterFrame]

/-- R221: a valid mode-setting frame disconnects a master. -/
theorem onMasterFrame_modeSet {pf : BitVec 1} (payload : List Byte) :
    ss.onMasterFrame ch (.unnumbered pf Config.modeSet) true payload = ss.disconnect.ignore := by
  have hother : isUnnumbered Config.acknowledge (.unnumbered pf Config.modeSet) = false := rfl
  simp [Session.onMasterFrame, hother]

/-- R226: a valid mode-setting frame sets a slave up anew. -/
theorem onSlaveFrame_modeSet {pf : BitVec 1} (payload : List Byte) :
    ss.onSlaveFrame ch (.unnumbered pf Config.modeSet) true payload =
      { session := { ss.disconnect with initialized := true },
        issued := [.txReset, respond ch (.unnumbered ch.acknowledgePf Config.acknowledge) ch.acknowledgePriority],
        delivered := [] } := by
  simp [Session.onSlaveFrame]

/-- R227: any other valid frame to a disconnected slave. -/
theorem onSlaveFrame_disconnected {c : Control} (hdisconnected : ss.initialized = false)
    (hc : isUnnumbered Config.modeSet c = false) (payload : List Byte) :
    ss.onSlaveFrame ch c true payload =
      { session := ss,
        issued := [respond ch (.unnumbered ch.disconnectedModePf ch.disconnectedModeType) Config.prioResponse],
        delivered := [] } := by
  simp [Session.onSlaveFrame, hdisconnected, hc]

/-- An invalid frame leaves a disconnected session as it is (log 19). -/
theorem onFrame_invalid_disconnected (hdisconnected : ss.initialized = false) (f : Frame) (payload : List Byte) :
    ss.onFrame ch f false payload = ss.ignore := by
  unfold Session.onFrame
  cases ss.addressed f with
  | false => rfl
  | true =>
    cases ss.role with
    | master => simp [Session.onMasterFrame, hdisconnected]
    | slave => simp [Session.onSlaveFrame, hdisconnected]

/-- R234: a frame whose address is not the one of the session's role. -/
theorem onFrame_other_address (h : (ss.role = .master ∧ f.address ≠ ss.peerAddress) ∨
      (ss.role = .slave ∧ f.address ≠ ss.configuredAddress)) (v : Bool) (payload : List Byte) :
    ss.onFrame ch f v payload = ss.ignore := by
  refine onFrame_not_addressed ch (Bool.eq_false_iff.2 fun haddressed => ?_) v payload
  obtain ⟨hmaster, hslave⟩ := (addressed_iff ss f).1 haddressed
  obtain ⟨hrole, hne⟩ | ⟨hrole, hne⟩ := h
  · exact hne (hmaster hrole)
  · exact hne (hslave hrole)

end Frames

/-- Settles O58: accepted, rejected, and where the payload comes from. -/
theorem hostAnswersInformationFrames : Obligations.HostAnswersInformationFrames := by
  intro ch ss f nr pf ns v hconnected hmaster hslave hcontrol
  have hframe := onFrame_information (ch := ch) hconnected ((addressed_iff ss f).2 ⟨hmaster, hslave⟩) hcontrol v
  exact ⟨fun payload => ⟨fun hvalid hns => (hframe payload).trans (onInformation_accepted hvalid hns payload),
    fun hother => (hframe payload).trans (onInformation_rejected hother payload)⟩, fun _ _ => react_of_frameRead⟩

/-- Settles O59: the operation issued is a removal by the acknowledged number. -/
theorem receiveReadyRemovesAcknowledgedFrame : Obligations.ReceiveReadyRemovesAcknowledgedFrame := by
  intro ch ss f nr pf payload s hconnected hmaster hslave hcontrol acknowledged
  have hmatch : ∀ it, acknowledged it ↔ itemMatches .information (acknowledgedKey nr) it = true :=
    fun it => (itemMatches_acknowledgedKey nr it).symm
  refine ⟨_, onFrame_receiveReady hconnected ((addressed_iff ss f).2 ⟨hmaster, hslave⟩) hcontrol payload, ?_⟩
  simp only [hmatch]
  exact ⟨fun _ _ _ => exec_txRemove_of_match, exec_txRemove_of_no_match⟩

/-- Settles O60: creation by cases on the mode, then each frame by its role's rules. -/
theorem hostHandshakeFollowsRules : Obligations.HostHandshakeFollowsRules := by
  refine ⟨fun ch role peer configured mode => ⟨fun hknown => if_pos hknown, fun hunknown => if_neg hunknown⟩,
    fun ch ss pf f v payload => ⟨rfl, fun hrole => ?_, fun hrole => ?_, fun hrole haddress hcontrol => ?_,
      fun hrole haddress hcontrol => ?_, fun hrole haddress hcontrol => ?_,
      fun hrole hdisconnected haddress hcontrol => ?_,
      fun hdisconnected => onFrame_invalid_disconnected hdisconnected f payload,
      fun hrole haddress => onFrame_other_address (.inl ⟨hrole, haddress⟩) v payload,
      fun hrole haddress => onFrame_other_address (.inr ⟨hrole, haddress⟩) v payload⟩⟩
  · rw [Session.onCreation, hrole]; rfl
  · rw [Session.onCreation, hrole]
  · rw [onFrame_of_master hrole haddress, hcontrol]
    exact onMasterFrame_acknowledge payload
  · rw [onFrame_of_master hrole haddress, hcontrol]
    exact onMasterFrame_modeSet payload
  · rw [onFrame_of_slave hrole haddress, hcontrol]
    exact onSlaveFrame_modeSet payload
  · rw [onFrame_of_slave hrole haddress]
    exact onSlaveFrame_disconnected hdisconnected (isUnnumbered_eq_false hcontrol) payload

end Sys2Proof
end
